-- ==== Sys2Proof/Word.lean ====
section
/-! DEFINITION. The word types of SBRA-CORE (the byte of GF(2^8) and of the tables, the 32-bit word of
registers, commands and response data), and the type of a fixed row of like cells. -/

namespace Sys2Proof

/-- A byte: a field element, a selector, a matrix row, an S-box entry (00_scope.md R10). -/
abbrev Byte := BitVec 8

/-- A 32-bit word: a general register, a command word, response data (R31, R111, R293). -/
abbrev Word := BitVec 32

/-- A row of `n` cells: the register file or a table space (10_state.md R31, R58). It is the list of its
cells with the proof that there are `n` of them (log 5). -/
structure Cells (α : Type) (n : Nat) where
  toList : List α
  size_eq : toList.length = n
deriving DecidableEq, Repr

/-- The row whose `n` cells all hold `v`. -/
def Cells.fill {α : Type} (n : Nat) (v : α) : Cells α n := ⟨List.replicate n v, List.length_replicate⟩

end Sys2Proof
end

