-- ==== Sys2Proof/Syntax.lean ====
section
/-! DEFINITION. The 31 commands of SBRA-1, one constructor per row of spec/opcode_table.json
(30_encoding.md R115). -/

namespace Sys2Proof

/-- The number of a general register, 0..15 (R31). -/
abbrev RegNum := Fin 16

/-- A 12-bit selector: CSR number, space number, row number or metric number (R112). -/
abbrev Sel := BitVec 12

/-- A decoded command. Operands stand in the order of the assembler syntax (R115, R120). A selector
is kept as its 12-bit number: the command itself refuses a number it does not accept (R292). -/
inductive Instr where
  /-- `NOP` (R260). -/
  | nop
  /-- `LI rd, imm16` (R261). -/
  | li (rd : RegNum) (imm : BitVec 16)
  /-- `GET rs1` (R262). -/
  | get (rs1 : RegNum)
  /-- `CSRR rd, csr` (R263). -/
  | csrr (rd : RegNum) (csr : Sel)
  /-- `CSRW csr, rs1` (R264). -/
  | csrw (csr : Sel) (rs1 : RegNum)
  /-- `ECLR` (R265). -/
  | eclr
  /-- `LDT rd, space, rs1` (R266). -/
  | ldt (rd : RegNum) (space : Sel) (rs1 : RegNum)
  /-- `STS rs1, rs2` (R267). -/
  | sts (rs1 rs2 : RegNum)
  /-- `GFADD rd, rs1, rs2` (R146). -/
  | gfadd (rd rs1 rs2 : RegNum)
  /-- `GFMUL rd, rs1, rs2` (R147). -/
  | gfmul (rd rs1 rs2 : RegNum)
  /-- `GFINV rd, rs1` (R148). -/
  | gfinv (rd rs1 : RegNum)
  /-- `GFINVZ rd, rs1` (R149). -/
  | gfinvz (rd rs1 : RegNum)
  /-- `FBUILD rs1` (R145). -/
  | fbuild (rs1 : RegNum)
  /-- `MROW row, rs1` (R163). -/
  | mrow (row : Sel) (rs1 : RegNum)
  /-- `MCONST rs1` (R164). -/
  | mconst (rs1 : RegNum)
  /-- `MATV rd, rs1` (R162). -/
  | matv (rd rs1 : RegNum)
  /-- `AFF rd, rs1` (R165). -/
  | aff (rd rs1 : RegNum)
  /-- `SBUILD` (R166). -/
  | sbuild
  /-- `SBCHK` (R167). -/
  | sbchk
  /-- `WHT rd, rs1` (R182). -/
  | wht (rd rs1 : RegNum)
  /-- `NLSET` (R183). -/
  | nlset
  /-- `BICNL` (R184). -/
  | bicnl
  /-- `SAC` (R202). -/
  | sac
  /-- `BICSAC` (R204). -/
  | bicsac
  /-- `DDTR rd, rs1` (R217). -/
  | ddtr (rd rs1 : RegNum)
  /-- `DAP` (R218). -/
  | dap
  /-- `LATC rd, rs1` (R220). -/
  | latc (rd rs1 : RegNum)
  /-- `LAP` (R221). -/
  | lap
  /-- `ANALYZE` (R243). -/
  | analyze
  /-- `SNAP` (R244). -/
  | snap
  /-- `CMP rd, metric` (R245). -/
  | cmp (rd : RegNum) (metric : Sel)
deriving DecidableEq, Repr

/-- The mnemonic of a command, as spec/opcode_table.json spells it (R115). -/
def Instr.mnemonic : Instr → String
  | .nop => "NOP"
  | .li _ _ => "LI"
  | .get _ => "GET"
  | .csrr _ _ => "CSRR"
  | .csrw _ _ => "CSRW"
  | .eclr => "ECLR"
  | .ldt _ _ _ => "LDT"
  | .sts _ _ => "STS"
  | .gfadd _ _ _ => "GFADD"
  | .gfmul _ _ _ => "GFMUL"
  | .gfinv _ _ => "GFINV"
  | .gfinvz _ _ => "GFINVZ"
  | .fbuild _ => "FBUILD"
  | .mrow _ _ => "MROW"
  | .mconst _ => "MCONST"
  | .matv _ _ => "MATV"
  | .aff _ _ => "AFF"
  | .sbuild => "SBUILD"
  | .sbchk => "SBCHK"
  | .wht _ _ => "WHT"
  | .nlset => "NLSET"
  | .bicnl => "BICNL"
  | .sac => "SAC"
  | .bicsac => "BICSAC"
  | .ddtr _ _ => "DDTR"
  | .dap => "DAP"
  | .latc _ _ => "LATC"
  | .lap => "LAP"
  | .analyze => "ANALYZE"
  | .snap => "SNAP"
  | .cmp _ _ => "CMP"

end Sys2Proof
end

