-- ==== Sys2Proof/Decode.lean ====
section
/-! DEFINITION. The decoder of SBRA-1, total on all 2^32 words (30_encoding.md R111 to R117), and
after it the encoder, written from the same formats. -/

namespace Sys2Proof

/-- `op = w[31:24]` (R114). -/
def opField (w : Word) : BitVec 8 := w.extractLsb' 24 8

/-- `w[23:20]`, the `rd` field (R114). -/
def rdField (w : Word) : BitVec 4 := w.extractLsb' 20 4

/-- `w[19:16]`, the `rs1` field of format X and the `z` field of format I (R112, R113). -/
def rs1Field (w : Word) : BitVec 4 := w.extractLsb' 16 4

/-- `w[15:12]`, the `rs2` field (R114). -/
def rs2Field (w : Word) : BitVec 4 := w.extractLsb' 12 4

/-- `w[11:0]`, the `sel` field (R114). -/
def selField (w : Word) : Sel := w.extractLsb' 0 12

/-- `w[15:0]`, the `imm16` field of format I (R113). -/
def immField (w : Word) : BitVec 16 := w.extractLsb' 0 16

/-- A 4-bit register field as a register number. -/
def fieldReg (f : BitVec 4) : RegNum := ⟨f.toNat, f.isLt⟩

/-- A register number as its 4-bit field. -/
def regField (r : RegNum) : BitVec 4 := BitVec.ofNat 4 r.val

/-- The register `rd` names. -/
def rdOf (w : Word) : RegNum := fieldReg (rdField w)

/-- The register `rs1` names. -/
def rs1Of (w : Word) : RegNum := fieldReg (rs1Field w)

/-- The register `rs2` names. -/
def rs2Of (w : Word) : RegNum := fieldReg (rs2Field w)

/-- Why a word is illegal already as an encoding (R117 (a) and (b)). Both raise `IllegalCommand`
(safe: the spec gives the effect). -/
inductive DecodeError where
  /-- R117 (a): `op` is not one of the 31 values of R115. -/
  | unknownOp
  /-- R117 (b): a field the command does not use is not zero. -/
  | unusedFieldNotZero
deriving DecidableEq, Repr

/-- The command, if all the fields it does not use are zero (R117 (b)). -/
def ifUnusedZero (unusedZero : Bool) (i : Instr) : Except DecodeError Instr :=
  if unusedZero then .ok i else .error .unusedFieldNotZero

/-- The decoder: the command table of R115, row by row. The Bool of a row says that every field of
the word the row's command does not use is zero. -/
def decode (w : Word) : Except DecodeError Instr :=
  let rdZ := rdField w == 0#4
  let rs1Z := rs1Field w == 0#4
  let rs2Z := rs2Field w == 0#4
  let selZ := selField w == 0#12
  match opField w with
  | 0x00#8 => ifUnusedZero (rdZ && rs1Z && rs2Z && selZ) .nop
  | 0x01#8 => ifUnusedZero rs1Z (.li (rdOf w) (immField w))
  | 0x02#8 => ifUnusedZero (rdZ && rs2Z && selZ) (.get (rs1Of w))
  | 0x03#8 => ifUnusedZero (rs1Z && rs2Z) (.csrr (rdOf w) (selField w))
  | 0x04#8 => ifUnusedZero (rdZ && rs2Z) (.csrw (selField w) (rs1Of w))
  | 0x05#8 => ifUnusedZero (rdZ && rs1Z && rs2Z && selZ) .eclr
  | 0x06#8 => ifUnusedZero rs2Z (.ldt (rdOf w) (selField w) (rs1Of w))
  | 0x07#8 => ifUnusedZero (rdZ && selZ) (.sts (rs1Of w) (rs2Of w))
  | 0x10#8 => ifUnusedZero selZ (.gfadd (rdOf w) (rs1Of w) (rs2Of w))
  | 0x11#8 => ifUnusedZero selZ (.gfmul (rdOf w) (rs1Of w) (rs2Of w))
  | 0x12#8 => ifUnusedZero (rs2Z && selZ) (.gfinv (rdOf w) (rs1Of w))
  | 0x13#8 => ifUnusedZero (rs2Z && selZ) (.gfinvz (rdOf w) (rs1Of w))
  | 0x14#8 => ifUnusedZero (rdZ && rs2Z && selZ) (.fbuild (rs1Of w))
  | 0x20#8 => ifUnusedZero (rdZ && rs2Z) (.mrow (selField w) (rs1Of w))
  | 0x21#8 => ifUnusedZero (rdZ && rs2Z && selZ) (.mconst (rs1Of w))
  | 0x22#8 => ifUnusedZero (rs2Z && selZ) (.matv (rdOf w) (rs1Of w))
  | 0x23#8 => ifUnusedZero (rs2Z && selZ) (.aff (rdOf w) (rs1Of w))
  | 0x24#8 => ifUnusedZero (rdZ && rs1Z && rs2Z && selZ) .sbuild
  | 0x25#8 => ifUnusedZero (rdZ && rs1Z && rs2Z && selZ) .sbchk
  | 0x30#8 => ifUnusedZero (rs2Z && selZ) (.wht (rdOf w) (rs1Of w))
  | 0x31#8 => ifUnusedZero (rdZ && rs1Z && rs2Z && selZ) .nlset
  | 0x32#8 => ifUnusedZero (rdZ && rs1Z && rs2Z && selZ) .bicnl
  | 0x40#8 => ifUnusedZero (rdZ && rs1Z && rs2Z && selZ) .sac
  | 0x41#8 => ifUnusedZero (rdZ && rs1Z && rs2Z && selZ) .bicsac
  | 0x50#8 => ifUnusedZero (rs2Z && selZ) (.ddtr (rdOf w) (rs1Of w))
  | 0x51#8 => ifUnusedZero (rdZ && rs1Z && rs2Z && selZ) .dap
  | 0x52#8 => ifUnusedZero (rs2Z && selZ) (.latc (rdOf w) (rs1Of w))
  | 0x53#8 => ifUnusedZero (rdZ && rs1Z && rs2Z && selZ) .lap
  | 0x60#8 => ifUnusedZero (rdZ && rs1Z && rs2Z && selZ) .analyze
  | 0x61#8 => ifUnusedZero (rdZ && rs1Z && rs2Z && selZ) .snap
  | 0x62#8 => ifUnusedZero (rs1Z && rs2Z) (.cmp (rdOf w) (selField w))
  | _ => .error .unknownOp

/-- Format X (R112): `op`, `rd`, `rs1`, `rs2`, `sel`, from bit 31 down. -/
def formatX (op : BitVec 8) (rd rs1 rs2 : BitVec 4) (sel : Sel) : Word :=
  op ++ rd ++ rs1 ++ rs2 ++ sel

/-- Format I (R113): `op`, `rd`, `z = 0`, `imm16`, from bit 31 down. -/
def formatI (op : BitVec 8) (rd : BitVec 4) (imm : BitVec 16) : Word :=
  op ++ rd ++ 0#4 ++ imm

/-- The encoder: the one word of a command, every field it does not use zero (R115, R117, R120). -/
def encode : Instr → Word
  | .nop => formatX 0x00#8 0#4 0#4 0#4 0#12
  | .li rd imm => formatI 0x01#8 (regField rd) imm
  | .get rs1 => formatX 0x02#8 0#4 (regField rs1) 0#4 0#12
  | .csrr rd csr => formatX 0x03#8 (regField rd) 0#4 0#4 csr
  | .csrw csr rs1 => formatX 0x04#8 0#4 (regField rs1) 0#4 csr
  | .eclr => formatX 0x05#8 0#4 0#4 0#4 0#12
  | .ldt rd space rs1 => formatX 0x06#8 (regField rd) (regField rs1) 0#4 space
  | .sts rs1 rs2 => formatX 0x07#8 0#4 (regField rs1) (regField rs2) 0#12
  | .gfadd rd rs1 rs2 => formatX 0x10#8 (regField rd) (regField rs1) (regField rs2) 0#12
  | .gfmul rd rs1 rs2 => formatX 0x11#8 (regField rd) (regField rs1) (regField rs2) 0#12
  | .gfinv rd rs1 => formatX 0x12#8 (regField rd) (regField rs1) 0#4 0#12
  | .gfinvz rd rs1 => formatX 0x13#8 (regField rd) (regField rs1) 0#4 0#12
  | .fbuild rs1 => formatX 0x14#8 0#4 (regField rs1) 0#4 0#12
  | .mrow row rs1 => formatX 0x20#8 0#4 (regField rs1) 0#4 row
  | .mconst rs1 => formatX 0x21#8 0#4 (regField rs1) 0#4 0#12
  | .matv rd rs1 => formatX 0x22#8 (regField rd) (regField rs1) 0#4 0#12
  | .aff rd rs1 => formatX 0x23#8 (regField rd) (regField rs1) 0#4 0#12
  | .sbuild => formatX 0x24#8 0#4 0#4 0#4 0#12
  | .sbchk => formatX 0x25#8 0#4 0#4 0#4 0#12
  | .wht rd rs1 => formatX 0x30#8 (regField rd) (regField rs1) 0#4 0#12
  | .nlset => formatX 0x31#8 0#4 0#4 0#4 0#12
  | .bicnl => formatX 0x32#8 0#4 0#4 0#4 0#12
  | .sac => formatX 0x40#8 0#4 0#4 0#4 0#12
  | .bicsac => formatX 0x41#8 0#4 0#4 0#4 0#12
  | .ddtr rd rs1 => formatX 0x50#8 (regField rd) (regField rs1) 0#4 0#12
  | .dap => formatX 0x51#8 0#4 0#4 0#4 0#12
  | .latc rd rs1 => formatX 0x52#8 (regField rd) (regField rs1) 0#4 0#12
  | .lap => formatX 0x53#8 0#4 0#4 0#4 0#12
  | .analyze => formatX 0x60#8 0#4 0#4 0#4 0#12
  | .snap => formatX 0x61#8 0#4 0#4 0#4 0#12
  | .cmp rd metric => formatX 0x62#8 (regField rd) 0#4 0#4 metric

/-- The command word with the given table bits: bit 0 of `w` is bit 0 of the word, bits at and above
`nbits` are 0. A command is exactly one 32-bit word (R111), so there is no second word. -/
def tableWord (nbits w : Nat) : Word := BitVec.ofNat 32 (w % 2 ^ nbits)

/-- The instruction the decoder reads from an opcode-table word; none where it refuses. -/
def decodeTableWord (nbits w : Nat) : Option Instr := (decode (tableWord nbits w)).toOption

end Sys2Proof
end

