-- ==== Sys2Proof/Machine/Bits.lean ====
section
/-! DEFINITION. The notation of 00_scope.md R10, R11 and R13 that every rule uses: bits, parity, bit
reversal, extension to 32 bits, maxima and minima over finite ranges, and reading, writing and filling
a row of cells. -/

namespace Sys2Proof

/-- Cell `i` of a row. -/
def Cells.get {α : Type} {n : Nat} (t : Cells α n) (i : Fin n) : α :=
  t.toList[i.val]'(by rw [t.size_eq]; exact i.isLt)

/-- Cell `i` of a row; none at or above its size (R82, R86). -/
def Cells.get? {α : Type} {n : Nat} (t : Cells α n) (i : Nat) : Option α := t.toList[i]?

/-- The row with cell `i` replaced by `v`. -/
def Cells.set {α : Type} {n : Nat} (t : Cells α n) (i : Fin n) (v : α) : Cells α n :=
  ⟨t.toList.set i.val v, by rw [List.length_set]; exact t.size_eq⟩

/-- The row whose cell `i` is `f i`. -/
def Cells.tabulate {α : Type} (n : Nat) (f : Nat → α) : Cells α n :=
  ⟨(List.range n).map f, by rw [List.length_map, List.length_range]⟩

end Sys2Proof

namespace Sys2Proof.Machine

/-- `popcount(v)`: the number of 1 bits of a byte, the sum of its eight bits (R11). -/
def popcount (v : Byte) : Nat :=
  let n := v.toNat
  n % 2 + n / 2 % 2 + n / 4 % 2 + n / 8 % 2 + n / 16 % 2 + n / 32 % 2 + n / 64 % 2 + n / 128 % 2

/-- `parity(v) = popcount(v) mod 2` (R11), as a bit. -/
def parity (v : Byte) : Bool := popcount v % 2 == 1

/-- `rev8(v)`: bit `i` of the result is bit `7 - i` of `v` (R11). -/
def rev8 (v : Byte) : Byte := v.reverse

/-- The byte `2^i`, for `i` in 0..7 (R10). -/
def bitByte (i : Nat) : Byte := 1#8 <<< i

/-- `zext_32` of a byte (R11). -/
def zext32 (v : Byte) : Word := v.setWidth 32

/-- `zext_32` of a non-negative integer (R11). -/
def natWord (n : Nat) : Word := BitVec.ofNat 32 n

/-- `sext_32` of an integer: its two's complement encoding (R11). -/
def sext32 (z : Int) : Word := BitVec.ofInt 32 z

/-- The bytes 0..255, in rising order. -/
def bytes : List Byte := (List.range 256).map (BitVec.ofNat 8)

/-- The bytes 1..255, in rising order. -/
def nonzeroBytes : List Byte := (List.range' 1 255).map (BitVec.ofNat 8)

/-- `max` over the values of a non-empty range (R11). -/
def maxOf (l : List Nat) : Nat := l.foldr max 0

/-- `min` over the values of a non-empty range (R11). -/
def minOf : List Nat → Nat
  | [] => 0
  | v :: vs => vs.foldr min v

/-- The index a byte names in a row of 256 cells. -/
def byteIndex (b : Byte) : Fin 256 := ⟨b.toNat, b.isLt⟩

/-- The row of 256 cells whose cell `b` is `f b`. -/
def byteTable {α : Type} (f : Byte → α) : Cells α 256 := Cells.tabulate 256 fun i => f (BitVec.ofNat 8 i)

/-- `T[b]`: cell `b` of a row of 256 cells. -/
def cellAt {α : Type} (t : Cells α 256) (b : Byte) : α := t.get (byteIndex b)

end Sys2Proof.Machine
end

