-- ==== Sys2Proof/Config.lean ====
section
/-! DEFINITION. What an implementation of SBRA-CORE fixes. By 00_scope.md R7 every parameter is
fixed, and none is open that a rule depends on, so there is no free value here. -/

namespace Sys2Proof.Config

/-- `ID` (R44): "SB" in ASCII in the high half, version 1 in the low byte. -/
def partId : Word := 0x53420001#32

/-- The reduction polynomial 0x11B of GF(2^8) (R7, R140), in the 15-bit register of R141. -/
def reductionPoly : BitVec 15 := 0x11B#15

/-- SAC sum that stands for the ideal 0.5 (R202, R245). -/
def sacIdeal : Nat := 8192

/-- The BIC-SAC baseline as a sum over 28 pairs: 0.5 of 57344, or 0.25 of it (R204). -/
def bicBaseline (quarter : Bool) : Nat := if quarter then 14336 else 28672

end Sys2Proof.Config
end

