-- ==== Sys2Proof/Machine/State.lean ====
section
/-! DEFINITION. The architectural state of SBRA-CORE (10_state.md R30 to R58), its reset value
(70_reset_and_hazards.md R331), and the reasons a step could stop. -/

namespace Sys2Proof.Machine

/-- The six flags of `STATUS` (R41, R45). -/
structure Status where
  /-- An exception is latched: the unit is blocked. -/
  err : Bool
  /-- `EXP`, `LOG`, `GEN` hold valid field tables. -/
  ftv : Bool
  /-- `SBOX` holds a checked permutation. -/
  sbv : Bool
  /-- `WS`, `WSTAG` were computed from the current `SBOX`. -/
  wsv : Bool
  /-- `DR`, `DRTAG` were computed from the current `SBOX`. -/
  drv : Bool
  /-- `LC`, `LCTAG` were computed from the current `SBOX`. -/
  lcv : Bool
deriving DecidableEq, Repr

/-- The seven bits of `RVALID` (R52). -/
structure ReportValid where
  /-- Bit 0: `NL_MIN`, `NL_MAX`, `NL_SUM` are valid. -/
  nl : Bool
  /-- Bit 1: `BN_MIN`, `BN_MAX`, `BN_SUM` are valid. -/
  bn : Bool
  /-- Bit 2: `SACM`, `SAC_SUM` are valid. -/
  sac : Bool
  /-- Bit 3: `BSM`, `BS_MIN`, `BS_MAX`, `BS_SUM`, `BS_DEV` are valid. -/
  bs : Bool
  /-- Bit 4: `LAP_MAX` is valid. -/
  lap : Bool
  /-- Bit 5: `DAP_MAX` is valid. -/
  dap : Bool
  /-- Bit 8: the value `CTRL.BICBASE` had when `BS_DEV` was computed. -/
  bsBase : Bool
deriving DecidableEq, Repr

/-- One bank of the report: `RVALID` and the 13 report registers (R52, R53, R54). -/
structure Report where
  valid : ReportValid
  nlMin : Word
  nlMax : Word
  nlSum : Word
  bnMin : Word
  bnMax : Word
  bnSum : Word
  sacSum : Word
  bsMin : Word
  bsMax : Word
  bsSum : Word
  bsDev : Word
  lapMax : Word
  dapMax : Word
deriving DecidableEq, Repr

/-- The exception record (R48). -/
structure ExceptionRecord where
  /-- `ECAUSE[7:0]`: code of the latched exception, 0 when none is latched. -/
  ecause : BitVec 8
  /-- `EINFO`: the information value of the latched exception. -/
  einfo : Word
  /-- `ECMD`: the command word that raised it. -/
  ecmd : Word
  /-- `ECC`: the value of `CC` of the command that raised it. -/
  ecc : Word
deriving DecidableEq, Repr

/-- The comparison result registers (R55). -/
structure Comparison where
  /-- `CMPWIN[1:0]`. -/
  win : BitVec 2
  /-- `CMPA`. -/
  a : Word
  /-- `CMPB`. -/
  b : Word
  /-- `CMPDELTA`. -/
  delta : Word
deriving DecidableEq, Repr

/-- A response: `(status, data)` (R293). -/
structure Response where
  status : BitVec 8
  data : Word
deriving DecidableEq, Repr

/-- What the host does at a command boundary: it sends a command word (R110), or asserts reset
(R330). -/
inductive HostInput where
  | command (w : Word)
  | reset
deriving DecidableEq, Repr

/-- The state of SBRA-CORE (R30), and with it the host's side of the interface (`input`,
`responses`: the MODEL's own fields, DESIGN CHOICE, log 1 and 2). -/
structure State where
  /-- General registers `x[0..15]` (R31). -/
  x : Cells Word 16
  /-- `CC`, the command counter (R40). -/
  cc : Word
  /-- `STATUS` (R45). -/
  status : Status
  /-- `CTRL[2:0]`: `RORD` bit 0, `BORD` bit 1, `BICBASE` bit 2 (R46). -/
  ctrl : BitVec 3
  /-- `ECAUSE`, `EINFO`, `ECMD`, `ECC` (R48). -/
  record : ExceptionRecord
  /-- `GEN` (R49). -/
  gen : Byte
  /-- `CONST` (R50). -/
  const : Byte
  /-- `WSTAG` (R51). -/
  wstag : Byte
  /-- `DRTAG` (R51). -/
  drtag : Byte
  /-- `LCTAG` (R51). -/
  lctag : Byte
  /-- Report bank A (R52, R53). -/
  bankA : Report
  /-- Report bank B (R54). -/
  bankB : Report
  /-- `CMPWIN`, `CMPA`, `CMPB`, `CMPDELTA` (R55). -/
  cmp : Comparison
  /-- Space 3, `MAT`: the matrix rows (R57). -/
  mat : Cells Byte 8
  /-- Space 0, `EXP` (R58). -/
  exp : Cells Byte 256
  /-- Space 1, `LOG` (R58). -/
  log : Cells Byte 256
  /-- Space 2, `SBOX` (R58). -/
  sbox : Cells Byte 256
  /-- Space 4, `WS`: signed Walsh values (R58; cells are integers, log 6). -/
  ws : Cells Int 256
  /-- Space 5, `DR`: counts of one DDT row (R58, log 6). -/
  dr : Cells Nat 256
  /-- Space 6, `LC`: counts of one LAT column (R58, log 6). -/
  lc : Cells Nat 256
  /-- Space 7, `SACM`: SAC counts at index `j*8+i` (R58, log 6). -/
  sacm : Cells Nat 64
  /-- Space 8, `BSM`: BIC-SAC pair sums at index `i*8+k` (R58, log 6). -/
  bsm : Cells Nat 64
  /-- The model's own: what the host does next, oldest first (R16, R17, R110, R330; log 1). -/
  input : List HostInput
  /-- The model's own: the responses given so far, oldest first (R17, R293; log 2). -/
  responses : List Response
deriving DecidableEq, Repr

/-- The nine table spaces (20_memory.md R82). -/
inductive Space where
  | exp | log | sbox | mat | ws | dr | lc | sacm | bsm
deriving DecidableEq, Repr

/-- Reasons the machine stops. There is none: `step` is total (R292) and SBRA-CORE never halts by
itself (R17). Its exceptions are next states (R296), so this type has no constructor (safe: nothing
stops where the hardware goes on). -/
inductive Fault where
deriving DecidableEq, Repr

/-- Reasons the model refuses an instruction. -/
inductive Refusal where
  /-- Raised by an arm of `exec` whose instruction has no meaning yet; no arm raises it. Safe: a
  refused step is no next state. -/
  | notModelled (mnemonic : String)
deriving DecidableEq, Repr

/-- `RVALID` after reset (R331). -/
def ReportValid.reset : ReportValid :=
  { nl := false, bn := false, sac := false, bs := false, lap := false, dap := false, bsBase := false }

/-- A report bank after reset (R331). -/
def Report.reset : Report :=
  { valid := ReportValid.reset
    nlMin := 0#32, nlMax := 0#32, nlSum := 0#32
    bnMin := 0#32, bnMax := 0#32, bnSum := 0#32
    sacSum := 0#32
    bsMin := 0#32, bsMax := 0#32, bsSum := 0#32, bsDev := 0#32
    lapMax := 0#32, dapMax := 0#32 }

/-- The exception record with nothing latched (R48). -/
def ExceptionRecord.cleared : ExceptionRecord :=
  { ecause := 0#8, einfo := 0#32, ecmd := 0#32, ecc := 0#32 }

/-- The reset state (R331): everything 0. The host has sent nothing yet and has no response yet. -/
def State.reset : State :=
  { x := Cells.fill 16 0#32
    cc := 0#32
    status := { err := false, ftv := false, sbv := false, wsv := false, drv := false, lcv := false }
    ctrl := 0#3
    record := ExceptionRecord.cleared
    gen := 0#8
    const := 0#8
    wstag := 0#8
    drtag := 0#8
    lctag := 0#8
    bankA := Report.reset
    bankB := Report.reset
    cmp := { win := 0#2, a := 0#32, b := 0#32, delta := 0#32 }
    mat := Cells.fill 8 0#8
    exp := Cells.fill 256 0#8
    log := Cells.fill 256 0#8
    sbox := Cells.fill 256 0#8
    ws := Cells.fill 256 0
    dr := Cells.fill 256 0
    lc := Cells.fill 256 0
    sacm := Cells.fill 64 0
    bsm := Cells.fill 64 0
    input := []
    responses := [] }

end Sys2Proof.Machine
end

