-- ==== Sys2Proof/Machine/Flags.lean ====
section
/-! DEFINITION. The flags of SBRA-CORE (10_state.md R41, R42): the words `STATUS` and `RVALID` read
as, and the one change that several commands make to them. -/

namespace Sys2Proof.Machine

/-- `STATUS` as a word: `ERR, FTV, SBV, WSV, DRV, LCV` in bits 0 to 5, bits 31:6 read 0 (R45). -/
def Status.word (f : Status) : Word :=
  0#26 ++ BitVec.ofBool f.lcv ++ BitVec.ofBool f.drv ++ BitVec.ofBool f.wsv ++ BitVec.ofBool f.sbv
    ++ BitVec.ofBool f.ftv ++ BitVec.ofBool f.err

/-- `RVALID` as a word: `NL, BN, SAC, BS, LAP, DAP` in bits 0 to 5, `BSBASE` in bit 8, the others
read 0 (R52). -/
def ReportValid.word (v : ReportValid) : Word :=
  0#23 ++ BitVec.ofBool v.bsBase ++ 0#2 ++ BitVec.ofBool v.dap ++ BitVec.ofBool v.lap
    ++ BitVec.ofBool v.bs ++ BitVec.ofBool v.sac ++ BitVec.ofBool v.bn ++ BitVec.ofBool v.nl

/-- `CTRL` as a word: bits 31:3 read 0 (R46). -/
def ctrlWord (c : BitVec 3) : Word := c.setWidth 32

/-- `CTRL.RORD` (R46). -/
def rord (c : BitVec 3) : Bool := c.getLsbD 0

/-- `CTRL.BORD` (R46). -/
def bord (c : BitVec 3) : Bool := c.getLsbD 1

/-- `CTRL.BICBASE` (R46). -/
def bicBase (c : BitVec 3) : Bool := c.getLsbD 2

/-- All of `RVALID <- 0` (R166, R267). -/
def ReportValid.none : ReportValid :=
  { nl := false, bn := false, sac := false, bs := false, lap := false, dap := false, bsBase := false }

/-- What a change of the S-box does to the valid bits: `SBV` becomes `sbv`; `WSV`, `DRV`, `LCV` and all
of `RVALID_A` become 0. The guarded values stay (R41, R42, R166, R267). -/
def State.sboxChanged (s : State) (sbv : Bool) : State :=
  { s with
    status := { s.status with sbv := sbv, wsv := false, drv := false, lcv := false }
    bankA := { s.bankA with valid := ReportValid.none } }

end Sys2Proof.Machine
end

