-- ==== Sys2Proof/Machine/Ops.lean ====
section
/-! DEFINITION. The named operations over registers and table spaces, and the execution of one command
word: how a command ends normally, how it raises an exception, how a blocked unit answers
(60_exceptions.md R290 to R299), and the return from an exception (R303). -/

namespace Sys2Proof.Machine

/-- `x[r]` (R31). -/
def State.reg (s : State) (r : RegNum) : Word := s.x.get r

/-- `x[r] <- v` (R31). No register is hard-wired. -/
def State.setReg (s : State) (r : RegNum) (v : Word) : State := { s with x := s.x.set r v }

/-- The space a space number names; 9 to 4095 name none (R82). -/
def Space.ofNumber (n : Sel) : Option Space :=
  match n.toNat with
  | 0 => some .exp
  | 1 => some .log
  | 2 => some .sbox
  | 3 => some .mat
  | 4 => some .ws
  | 5 => some .dr
  | 6 => some .lc
  | 7 => some .sacm
  | 8 => some .bsm
  | _ => none

/-- The number of cells of a space (R82). -/
def Space.size : Space → Nat
  | .mat => 8
  | .sacm | .bsm => 64
  | .exp | .log | .sbox | .ws | .dr | .lc => 256

/-- `MemRead(sp:idx, 1)`: the cell as an integer; none at or above the size of the space (R82, R86). -/
def State.memRead (s : State) (sp : Space) (idx : Nat) : Option Int :=
  match sp with
  | .exp => (s.exp.get? idx).map fun c => Int.ofNat c.toNat
  | .log => (s.log.get? idx).map fun c => Int.ofNat c.toNat
  | .sbox => (s.sbox.get? idx).map fun c => Int.ofNat c.toNat
  | .mat => (s.mat.get? idx).map fun c => Int.ofNat c.toNat
  | .ws => s.ws.get? idx
  | .dr => (s.dr.get? idx).map Int.ofNat
  | .lc => (s.lc.get? idx).map Int.ofNat
  | .sacm => (s.sacm.get? idx).map Int.ofNat
  | .bsm => (s.bsm.get? idx).map Int.ofNat

/-- `MemWrite(SBOX:idx, 1, v)` (R82, R267). -/
def State.writeSbox (s : State) (idx : Byte) (v : Byte) : State :=
  { s with sbox := s.sbox.set (byteIndex idx) v }

/-- `MAT[row] <- v` (R57, R163). -/
def State.writeMat (s : State) (row : Fin 8) (v : Byte) : State := { s with mat := s.mat.set row v }

/-- The nine exceptions (R290). -/
inductive Exc where
  | illegalCommand | invalidGenerator | validationError | nonBijectiveResult | undefinedInverse
  | fieldNotReady | sboxNotValid | indexRange | reportNotValid
deriving DecidableEq, Repr

/-- The code of an exception (R290). -/
def Exc.code : Exc → BitVec 8
  | .illegalCommand => 1#8
  | .invalidGenerator => 2#8
  | .validationError => 3#8
  | .nonBijectiveResult => 4#8
  | .undefinedInverse => 5#8
  | .fieldNotReady => 6#8
  | .sboxNotValid => 7#8
  | .indexRange => 8#8
  | .reportNotValid => 9#8

/-- The response status of a word refused in the blocked state (R290, R298). -/
def blockedCode : BitVec 8 := 10#8

/-- How a command's pseudocode ends (R13): `respond(data)` with the state its writes give, or
`raise E(info)`, which discards its writes. -/
inductive Effect where
  | respond (data : Word) (s : State)
  | raise (e : Exc) (info : Word)

/-- The end of every command word: one response, and `CC <- CC + 1` (R40, R292, R293). -/
def State.retire (s : State) (r : Response) : State :=
  { s with cc := s.cc + 1#32, responses := s.responses ++ [r] }

/-- TAKING AN EXCEPTION (R296): if none is latched, latch it: `ERR <- 1`, `ECAUSE`, `EINFO`, `ECMD`,
`ECC`; if one is latched, keep its record (R299). Then `CC` advances and the response is
`(code(E), info)`. Nothing else changes, and control goes nowhere: the next word is the next command. -/
def takeException (s : State) (e : Exc) (info w : Word) : State :=
  State.retire
    (if s.status.err then s
      else { s with
        status := { s.status with err := true }
        record := { ecause := e.code, einfo := info, ecmd := w, ecc := s.cc } })
    { status := e.code, data := info }

/-- THE RETURN from an exception, the state change of `ECLR` (R265, R303): `ERR` and the record are
cleared; nothing else was changed, so nothing else is restored. -/
def State.clearException (s : State) : State :=
  { s with status := { s.status with err := false }, record := ExceptionRecord.cleared }

/-- The op bytes that run in the blocked state: `NOP`, `GET`, `CSRR`, `ECLR`, `LDT` (R292, R298). -/
def runsWhileBlocked (op : BitVec 8) : Bool :=
  op == 0x00#8 || op == 0x02#8 || op == 0x03#8 || op == 0x05#8 || op == 0x06#8

/-- The execution of one command word `w` whose pseudocode is `body` (R292): refused as `Blocked` if an
exception is latched and the op byte is not an allowed one; else the pseudocode runs and ends normally
or with an exception. -/
def issue (w : Word) (body : State → Effect) (s : State) : Host.Outcome State Fault Refusal :=
  if s.status.err && !runsWhileBlocked (opField w) then
    .next (s.retire { status := blockedCode, data := 0#32 })
  else
    match body s with
    | .respond data s' => .next (s'.retire { status := 0#8, data := data })
    | .raise e info => .next (takeException s e info w)

/-- The execution of a word that is illegal by R117 (a) or (b): it raises `IllegalCommand` (R292). -/
def issueIllegal (w : Word) (s : State) : Host.Outcome State Fault Refusal :=
  issue w (fun _ => .raise .illegalCommand w) s

end Sys2Proof.Machine
end

