-- ==== Sys2Proof/Machine/Operands.lean ====
section
/-! DEFINITION. The operand forms (10_state.md R33) and the results written to a register: the low byte
of a register, a whole register that must be a byte, the control and status registers by number (R43),
and the readiness checks that guard commands (R41). -/

namespace Sys2Proof.Machine

/-- `x[r][7:0]`: bits 31:8 are ignored (R33). -/
def State.regByte (s : State) (r : RegNum) : Byte := (s.reg r).setWidth 8

/-- A whole 32-bit value as a byte; none above 255, never truncated (R33). -/
def asByte (v : Word) : Option Byte := if v ≤ 255#32 then some (v.setWidth 8) else none

/-- `x[rd] <- v; respond(v)`: how a command with a destination ends (R293). -/
def respondInto (s : State) (rd : RegNum) (v : Word) : Effect := .respond v (s.setReg rd v)

/-- `if STATUS.FTV = 0: raise FieldNotReady(0)`, before the rest of a command (R41, R291). -/
def needField (s : State) (rest : State → Effect) : Effect :=
  if s.status.ftv then rest s else .raise .fieldNotReady 0#32

/-- `if STATUS.SBV = 0: raise SBoxNotValid(0)`, before the rest of a command (R41, R291). -/
def needSbox (s : State) (rest : State → Effect) : Effect :=
  if s.status.sbv then rest s else .raise .sboxNotValid 0#32

/-- The registers of a report bank, in the order of R43. -/
inductive ReportReg where
  | rvalid | nlMin | nlMax | nlSum | bnMin | bnMax | bnSum | sacSum | bsMin | bsMax | bsSum | bsDev
  | lapMax | dapMax
deriving DecidableEq, Repr

/-- The 45 control and status registers (R43). -/
inductive Csr where
  | id | status | ctrl | cc | ecause | einfo | ecmd | ecc | gen | const | wstag | drtag | lctag
  | bankA (r : ReportReg)
  | bankB (r : ReportReg)
  | cmpWin | cmpA | cmpB | cmpDelta
deriving DecidableEq, Repr

/-- The report registers with their offsets in a bank (R43, R54). -/
def reportMap : List (Nat × ReportReg) :=
  [(0x0, .rvalid), (0x1, .nlMin), (0x2, .nlMax), (0x3, .nlSum), (0x4, .bnMin), (0x5, .bnMax),
   (0x6, .bnSum), (0x7, .sacSum), (0x8, .bsMin), (0x9, .bsMax), (0xA, .bsSum), (0xB, .bsDev),
   (0xC, .lapMax), (0xD, .dapMax)]

/-- The single registers of the CSR map, 0x000 to 0x00C (R43). -/
def coreCsrMap : List (Nat × Csr) :=
  [(0x000, .id), (0x001, .status), (0x002, .ctrl), (0x003, .cc), (0x004, .ecause), (0x005, .einfo),
   (0x006, .ecmd), (0x007, .ecc), (0x008, .gen), (0x009, .const), (0x00A, .wstag), (0x00B, .drtag),
   (0x00C, .lctag)]

/-- The comparison registers of the CSR map, 0x300 to 0x303 (R43). -/
def cmpCsrMap : List (Nat × Csr) :=
  [(0x300, .cmpWin), (0x301, .cmpA), (0x302, .cmpB), (0x303, .cmpDelta)]

/-- The complete CSR map (R43); bank A stands at 0x100, bank B at 0x200. -/
def csrMap : List (Nat × Csr) :=
  coreCsrMap ++ (reportMap.map fun p => (0x100 + p.1, Csr.bankA p.2))
    ++ (reportMap.map fun p => (0x200 + p.1, Csr.bankB p.2)) ++ cmpCsrMap

/-- The CSR a number names; a number not in the map names none (R43, R56). -/
def Csr.ofNumber (n : Sel) : Option Csr := (csrMap.find? fun p => p.1 == n.toNat).map (·.2)

/-- The value of a register of a report bank (R52, R53). -/
def Report.read (b : Report) : ReportReg → Word
  | .rvalid => b.valid.word
  | .nlMin => b.nlMin
  | .nlMax => b.nlMax
  | .nlSum => b.nlSum
  | .bnMin => b.bnMin
  | .bnMax => b.bnMax
  | .bnSum => b.bnSum
  | .sacSum => b.sacSum
  | .bsMin => b.bsMin
  | .bsMax => b.bsMax
  | .bsSum => b.bsSum
  | .bsDev => b.bsDev
  | .lapMax => b.lapMax
  | .dapMax => b.dapMax

/-- The 32-bit value of a CSR; bits a rule does not name read 0, and no read has a side effect
(R43 to R56). -/
def State.readCsr (s : State) : Csr → Word
  | .id => Config.partId
  | .status => s.status.word
  | .ctrl => ctrlWord s.ctrl
  | .cc => s.cc
  | .ecause => zext32 s.record.ecause
  | .einfo => s.record.einfo
  | .ecmd => s.record.ecmd
  | .ecc => s.record.ecc
  | .gen => zext32 s.gen
  | .const => zext32 s.const
  | .wstag => zext32 s.wstag
  | .drtag => zext32 s.drtag
  | .lctag => zext32 s.lctag
  | .bankA r => s.bankA.read r
  | .bankB r => s.bankB.read r
  | .cmpWin => s.cmp.win.setWidth 32
  | .cmpA => s.cmp.a
  | .cmpB => s.cmp.b
  | .cmpDelta => s.cmp.delta

end Sys2Proof.Machine
end

