-- ==== Sys2Proof/Machine/Spectral.lean ====
section
/-! DEFINITION. The Spectral Analyzer (42_spectral.md): Walsh spectra, nonlinearity, and the commands
`WHT`, `NLSET`, `BICNL`. -/

namespace Sys2Proof.Machine

/-- `f(b, x) = parity(b AND SBOX[x])` (R180). -/
def boolFn (t : Cells Byte 256) (b x : Byte) : Bool := parity (b &&& cellAt t x)

/-- `f(b, x)` for `x` in 0..255, in that order (R180). -/
def truth (t : Cells Byte 256) (b : Byte) : List Bool := bytes.map (boolFn t b)

/-- `parity(a AND x)` for `x` in 0..255, in that order (R181, R219). -/
def linear (a : Byte) : List Bool := bytes.map fun x => parity (a &&& x)

/-- The linear functions of all 256 masks `a`, in order. -/
def linears : List (List Bool) := bytes.map linear

/-- The sum over all inputs of +1 where the two functions agree and -1 where they differ (R181). -/
def correlation (f l : List Bool) : Int := (List.zipWith (fun p q => if p == q then (1 : Int) else -1) f l).sum

/-- `walsh(b, a)` (R181). -/
def walsh (t : Cells Byte 256) (b a : Byte) : Int := correlation (truth t b) (linear a)

/-- `maxw(b)`: the greatest `|walsh(b, a)|` over all 256 values of `a` (R181). -/
def maxw (t : Cells Byte 256) (b : Byte) : Nat :=
  let f := truth t b
  maxOf (linears.map fun l => (correlation f l).natAbs)

/-- `nl(b) = 128 - maxw(b) / 2` (R181). -/
def nl (t : Cells Byte 256) (b : Byte) : Nat := 128 - maxw t b / 2

/-- The 28 unordered pairs `(i, k)`, `0 <= i < k <= 7` (R184, R204). -/
def bitPairs : List (Nat × Nat) :=
  (List.range 8).flatMap fun i => ((List.range 8).filter fun k => i < k).map fun k => (i, k)

/-- The selector `2^i OR 2^k` (R180, R184). -/
def pairSelector (p : Nat × Nat) : Byte := bitByte p.1 ||| bitByte p.2

/-- The nonlinearities of the 255 non-zero selectors (R183). -/
def nlValues (t : Cells Byte 256) : List Nat := nonzeroBytes.map (nl t)

/-- The nonlinearities of the 28 pairs of output bits (R184). -/
def bicNlValues (t : Cells Byte 256) : List Nat := bitPairs.map fun p => nl t (pairSelector p)

/-- The state writes of `NLSET` (R183, R243). -/
def writeNl (s : State) : State :=
  let v := nlValues s.sbox
  { s with bankA := { s.bankA with
      nlMin := natWord (minOf v)
      nlMax := natWord (maxOf v)
      nlSum := natWord v.sum
      valid := { s.bankA.valid with nl := true } } }

/-- The state writes of `BICNL` (R184, R243). -/
def writeBicnl (s : State) : State :=
  let v := bicNlValues s.sbox
  { s with bankA := { s.bankA with
      bnMin := natWord (minOf v)
      bnMax := natWord (maxOf v)
      bnSum := natWord v.sum
      valid := { s.bankA.valid with bn := true } } }

/-- `WHT rd, rs1` (R182). -/
def whtEffect (rd rs1 : RegNum) (s : State) : Effect :=
  needSbox s fun s =>
    let b := s.regByte rs1
    respondInto
      { s with
        ws := byteTable (walsh s.sbox b)
        wstag := b
        status := { s.status with wsv := true } }
      rd (natWord (nl s.sbox b))

/-- The execution of `WHT` (R292). -/
def execWht (rd rs1 : RegNum) (s : State) : Host.Outcome State Fault Refusal :=
  issue (encode (.wht rd rs1)) (whtEffect rd rs1) s

/-- `NLSET` (R183). -/
def nlsetEffect (s : State) : Effect :=
  needSbox s fun s =>
    let s' := writeNl s
    .respond s'.bankA.nlMin s'

/-- The execution of `NLSET` (R292). -/
def execNlset (s : State) : Host.Outcome State Fault Refusal :=
  issue (encode .nlset) nlsetEffect s

/-- `BICNL` (R184). -/
def bicnlEffect (s : State) : Effect :=
  needSbox s fun s =>
    let s' := writeBicnl s
    .respond s'.bankA.bnMin s'

/-- The execution of `BICNL` (R292). -/
def execBicnl (s : State) : Host.Outcome State Fault Refusal :=
  issue (encode .bicnl) bicnlEffect s

end Sys2Proof.Machine
end

