-- ==== Sys2Proof/Machine/Approximation.lean ====
section
/-! DEFINITION. The Approximation Analyzer (44_approximation.md): DDT and LAT counts, and the commands
`DDTR`, `DAP`, `LATC`, `LAP`. -/

namespace Sys2Proof.Machine

/-- The output differences `SBOX[x XOR dx] XOR SBOX[x]` for `x` in 0..255 (R216). -/
def outputDiffs (t : Cells Byte 256) (dx : Byte) : List Byte :=
  bytes.map fun x => cellAt t (x ^^^ dx) ^^^ cellAt t x

/-- `ddt(dx, dy)`: how many inputs give the output difference `dy` (R216). -/
def ddt (t : Cells Byte 256) (dx dy : Byte) : Nat := (outputDiffs t dx).count dy

/-- The greatest count of a DDT row (R217). -/
def ddtRowMax (t : Cells Byte 256) (dx : Byte) : Nat :=
  let d := outputDiffs t dx
  maxOf (bytes.map fun dy => d.count dy)

/-- The number of inputs on which two functions agree (R219). -/
def agreements (l f : List Bool) : Nat := (List.zipWith (fun p q => p == q) l f).count true

/-- `lat(a, b)` (R219). -/
def lat (t : Cells Byte 256) (a b : Byte) : Nat := agreements (linear a) (truth t b)

/-- `|count - 128|` (R220, R221). -/
def bias (count : Nat) : Nat := ((count : Int) - 128).natAbs

/-- The linear functions of the 255 non-zero masks `a`, in order. -/
def nonzeroLinears : List (List Bool) := nonzeroBytes.map linear

/-- The greatest bias of a LAT column over the non-zero input masks (R220). -/
def latColumnMax (t : Cells Byte 256) (b : Byte) : Nat :=
  let f := truth t b
  maxOf (nonzeroLinears.map fun l => bias (agreements l f))

/-- The state writes of `DAP` (R218, R243): the maximum over `dx` in 1..255 and `dy` in 0..255. -/
def writeDap (s : State) : State :=
  { s with bankA := { s.bankA with
      dapMax := natWord (maxOf (nonzeroBytes.map fun dx => ddtRowMax s.sbox dx))
      valid := { s.bankA.valid with dap := true } } }

/-- The state writes of `LAP` (R221, R243): the maximum over `a` and `b` in 1..255. -/
def writeLap (s : State) : State :=
  { s with bankA := { s.bankA with
      lapMax := natWord (maxOf (nonzeroBytes.map fun b => latColumnMax s.sbox b))
      valid := { s.bankA.valid with lap := true } } }

/-- `DDTR rd, rs1` (R217). -/
def ddtrEffect (rd rs1 : RegNum) (s : State) : Effect :=
  needSbox s fun s =>
    let dx := s.regByte rs1
    respondInto
      { s with
        dr := byteTable (ddt s.sbox dx)
        drtag := dx
        status := { s.status with drv := true } }
      rd (natWord (ddtRowMax s.sbox dx))

/-- The execution of `DDTR` (R292). -/
def execDdtr (rd rs1 : RegNum) (s : State) : Host.Outcome State Fault Refusal :=
  issue (encode (.ddtr rd rs1)) (ddtrEffect rd rs1) s

/-- `DAP` (R218). -/
def dapEffect (s : State) : Effect :=
  needSbox s fun s =>
    let s' := writeDap s
    .respond s'.bankA.dapMax s'

/-- The execution of `DAP` (R292). -/
def execDap (s : State) : Host.Outcome State Fault Refusal :=
  issue (encode .dap) dapEffect s

/-- `LATC rd, rs1` (R220): the buffer holds all 256 input masks, the maximum leaves `a = 0` out. -/
def latcEffect (rd rs1 : RegNum) (s : State) : Effect :=
  needSbox s fun s =>
    let b := s.regByte rs1
    respondInto
      { s with
        lc := byteTable fun a => lat s.sbox a b
        lctag := b
        status := { s.status with lcv := true } }
      rd (natWord (latColumnMax s.sbox b))

/-- The execution of `LATC` (R292). -/
def execLatc (rd rs1 : RegNum) (s : State) : Host.Outcome State Fault Refusal :=
  issue (encode (.latc rd rs1)) (latcEffect rd rs1) s

/-- `LAP` (R221). -/
def lapEffect (s : State) : Effect :=
  needSbox s fun s =>
    let s' := writeLap s
    .respond s'.bankA.lapMax s'

/-- The execution of `LAP` (R292). -/
def execLap (s : State) : Host.Outcome State Fault Refusal :=
  issue (encode .lap) lapEffect s

end Sys2Proof.Machine
end

