-- ==== Sys2Proof/Machine/Avalanche.lean ====
section
/-! DEFINITION. The Avalanche Analyzer (43_avalanche.md): SAC and BIC-SAC counts, and the commands `SAC`
and `BICSAC`. -/

namespace Sys2Proof.Machine

/-- `dflip(j, x) = SBOX[x] XOR SBOX[x XOR 2^j]` (R200). -/
def dflip (t : Cells Byte 256) (j : Nat) (x : Byte) : Byte := cellAt t x ^^^ cellAt t (x ^^^ bitByte j)

/-- `sac(j, i)` (R201). -/
def sacCount (t : Cells Byte 256) (j i : Nat) : Nat := bytes.countP fun x => (dflip t j x).getLsbD i

/-- `bcnt(i, k, j)` (R203). -/
def bicCount (t : Cells Byte 256) (i k j : Nat) : Nat :=
  bytes.countP fun x => (dflip t j x).getLsbD i ^^ (dflip t j x).getLsbD k

/-- `bsum(i, k)` (R203): 0 on the diagonal. -/
def bicSum (t : Cells Byte 256) (i k : Nat) : Nat :=
  if i = k then 0 else ((List.range 8).map fun j => bicCount t i k j).sum

/-- A table of 64 cells whose cell `p*8 + q` is `f p q` (R202, R204). -/
def pairTable (f : Nat → Nat → Nat) : Cells Nat 64 :=
  Cells.tabulate 64 fun n => f (n / 8) (n % 8)

/-- The sum of the 64 SAC counts (R202). -/
def sacTotal (t : Cells Byte 256) : Nat :=
  ((List.range 8).map fun j => ((List.range 8).map fun i => sacCount t j i).sum).sum

/-- The state writes of `SAC` (R202, R243). -/
def writeSac (s : State) : State :=
  { s with
    sacm := pairTable (sacCount s.sbox)
    bankA := { s.bankA with
      sacSum := natWord (sacTotal s.sbox)
      valid := { s.bankA.valid with sac := true } } }

/-- The 28 pair sums (R204). -/
def pairSums (t : Cells Byte 256) : List Nat := bitPairs.map fun p => bicSum t p.1 p.2

/-- `|s - base|` for the total `s` of the pair sums (R204). -/
def bicDeviation (s : Nat) (quarter : Bool) : Nat := ((s : Int) - (Config.bicBaseline quarter : Int)).natAbs

/-- The state writes of `BICSAC` (R204, R243). -/
def writeBicsac (s : State) : State :=
  let v := pairSums s.sbox
  { s with
    bsm := pairTable (bicSum s.sbox)
    bankA := { s.bankA with
      bsMin := natWord (minOf v)
      bsMax := natWord (maxOf v)
      bsSum := natWord v.sum
      bsDev := natWord (bicDeviation v.sum (bicBase s.ctrl))
      valid := { s.bankA.valid with bs := true, bsBase := bicBase s.ctrl } } }

/-- `SAC` (R202). -/
def sacEffect (s : State) : Effect :=
  needSbox s fun s =>
    let s' := writeSac s
    .respond s'.bankA.sacSum s'

/-- The execution of `SAC` (R292). -/
def execSac (s : State) : Host.Outcome State Fault Refusal :=
  issue (encode .sac) sacEffect s

/-- `BICSAC` (R204). -/
def bicsacEffect (s : State) : Effect :=
  needSbox s fun s =>
    let s' := writeBicsac s
    .respond s'.bankA.bsDev s'

/-- The execution of `BICSAC` (R292). -/
def execBicsac (s : State) : Host.Outcome State Fault Refusal :=
  issue (encode .bicsac) bicsacEffect s

end Sys2Proof.Machine
end

