-- ==== Sys2Proof/Machine/Aggregate.lean ====
section
/-! DEFINITION. The Metrics Aggregator (45_aggregate.md): the commands `ANALYZE`, `SNAP`, `CMP`. -/

namespace Sys2Proof.Machine

/-- `ANALYZE` (R243): the state writes of the six report commands. They read only `SBOX` and `CTRL` and
write disjoint registers, so their order does not matter. -/
def analyzeEffect (s : State) : Effect :=
  needSbox s fun s =>
    let s' := writeDap (writeLap (writeBicsac (writeSac (writeBicnl (writeNl s)))))
    .respond s'.bankA.valid.word s'

/-- The execution of `ANALYZE` (R292). -/
def execAnalyze (s : State) : Host.Outcome State Fault Refusal :=
  issue (encode .analyze) analyzeEffect s

/-- `SNAP` (R244): bank B becomes a copy of bank A, valid bits included. -/
def snapEffect (s : State) : Effect :=
  .respond s.bankA.valid.word { s with bankB := s.bankA }

/-- The execution of `SNAP` (R292). -/
def execSnap (s : State) : Host.Outcome State Fault Refusal :=
  issue (encode .snap) snapEffect s

/-- The comparable metrics (R245). -/
inductive Metric where
  | nlMin | nlMax | nlSum | bnMin | bnMax | bnSum | sacSum | bsDev | lapMax | dapMax
deriving DecidableEq, Repr

/-- The metric a metric number names (R245); the number is the register's offset in its bank. -/
def Metric.ofNumber (n : Sel) : Option Metric :=
  match n.toNat with
  | 1 => some .nlMin
  | 2 => some .nlMax
  | 3 => some .nlSum
  | 4 => some .bnMin
  | 5 => some .bnMax
  | 6 => some .bnSum
  | 7 => some .sacSum
  | 11 => some .bsDev
  | 12 => some .lapMax
  | 13 => some .dapMax
  | _ => none

/-- The register of a metric (R245). -/
def Metric.value (m : Metric) (b : Report) : Word :=
  match m with
  | .nlMin => b.nlMin
  | .nlMax => b.nlMax
  | .nlSum => b.nlSum
  | .bnMin => b.bnMin
  | .bnMax => b.bnMax
  | .bnSum => b.bnSum
  | .sacSum => b.sacSum
  | .bsDev => b.bsDev
  | .lapMax => b.lapMax
  | .dapMax => b.dapMax

/-- The valid bit a metric needs in both banks (R245). -/
def Metric.valid (m : Metric) (b : Report) : Bool :=
  match m with
  | .nlMin | .nlMax | .nlSum => b.valid.nl
  | .bnMin | .bnMax | .bnSum => b.valid.bn
  | .sacSum => b.valid.sac
  | .bsDev => b.valid.bs
  | .lapMax => b.valid.lap
  | .dapMax => b.valid.dap

/-- The key a metric is judged by: the bank with the lower key is preferred (R245). -/
def Metric.key (m : Metric) (v : Word) : Int :=
  match m with
  | .nlMin | .nlMax | .nlSum | .bnMin | .bnMax | .bnSum => -(v.toNat : Int)
  | .sacSum => (((v.toNat : Int) - (Config.sacIdeal : Int)).natAbs : Int)
  | .bsDev | .lapMax | .dapMax => (v.toNat : Int)

/-- The winner code from the two keys: 0 equal, 1 bank A, 2 bank B (R245). -/
def winner (ka kb : Int) : BitVec 2 := if ka = kb then 0#2 else if ka < kb then 1#2 else 2#2

/-- Both banks hold a valid value of the metric, and for `BS_DEV` one taken against the same baseline
(R245). -/
def Metric.comparable (m : Metric) (a b : Report) : Bool :=
  m.valid a && m.valid b && (m != .bsDev || a.valid.bsBase == b.valid.bsBase)

/-- `CMP rd, metric` (R245). -/
def cmpEffect (rd : RegNum) (metric : Sel) (s : State) : Effect :=
  match Metric.ofNumber metric with
  | none => .raise .illegalCommand (encode (.cmp rd metric))
  | some m =>
    if m.comparable s.bankA s.bankB then
      let a := m.value s.bankA
      let b := m.value s.bankB
      let win := winner (m.key a) (m.key b)
      respondInto
        { s with cmp := { win := win, a := a, b := b, delta := sext32 ((a.toNat : Int) - (b.toNat : Int)) } }
        rd (win.setWidth 32)
    else .raise .reportNotValid (metric.setWidth 32)

/-- The execution of `CMP` (R292). -/
def execCmp (rd : RegNum) (metric : Sel) (s : State) : Host.Outcome State Fault Refusal :=
  issue (encode (.cmp rd metric)) (cmpEffect rd metric) s

end Sys2Proof.Machine
end

