-- ==== Sys2Proof/Machine/Field.lean ====
section
/-! DEFINITION. The Field Engine (40_field.md): GF(2^8) modulo 0x11B, its tables, and the commands
`GFADD`, `GFMUL`, `GFINV`, `GFINVZ`, `FBUILD`. -/

namespace Sys2Proof.Machine

/-- The first loop of `pmul` (R141): the product of the two polynomials over GF(2), 15 bits. -/
def carrylessMul (a b : Byte) : BitVec 15 :=
  (List.range 8).foldl (fun p i => if b.getLsbD i then p ^^^ (a.setWidth 15 <<< i) else p) 0#15

/-- The second loop of `pmul` (R141): bits 14 down to 8 reduced by 0x11B. -/
def reduceMod (p : BitVec 15) : BitVec 15 :=
  [14, 13, 12, 11, 10, 9, 8].foldl
    (fun p i => if p.getLsbD i then p ^^^ (Config.reductionPoly <<< (i - 8)) else p) p

/-- `pmul(a, b)`, the table-free product (R141). -/
def pmul (a b : Byte) : Byte := (reduceMod (carrylessMul a b)).setWidth 8

/-- `ppow(g, k)` (R142). -/
def ppow (g : Byte) : Nat → Byte
  | 0 => 1#8
  | k + 1 => pmul (ppow g k) g

/-- `[ppow(g, k), ppow(g, k+1), …]`, `n` powers from `e = ppow(g, k)` on (R142, R145). -/
def powersFrom (g e : Byte) : Nat → List Byte
  | 0 => []
  | n + 1 => e :: powersFrom g (pmul e g) n

/-- There are `n` powers in the list. -/
theorem length_powersFrom (g e : Byte) (n : Nat) : (powersFrom g e n).length = n := by
  induction n generalizing e with
  | zero => rfl
  | succ n ih => rw [powersFrom, List.length_cons, ih]

/-- `ord(g)`: the least `k` in 1..255 with `ppow(g, k) = 1`; none for 0 (R142). The list holds
`ppow(g, 1)` to `ppow(g, 255)`. -/
def order (g : Byte) : Option Nat :=
  ((powersFrom g (pmul 1#8 g) 255).findIdx? fun e => e == 1#8).map (· + 1)

/-- `g` is a primitive element: `ord(g) = 255` (R142). -/
def isPrimitive (g : Byte) : Bool := order g == some 255

/-- The 256 powers `ppow(g, 0)` to `ppow(g, 255)` (R143). -/
def powers (g : Byte) : List Byte := powersFrom g 1#8 256

/-- `exptab(g)` (R143): cell `i` is `ppow(g, i)`. -/
def expTab (g : Byte) : Cells Byte 256 := ⟨powers g, length_powersFrom g 1#8 256⟩

/-- `logtab(g)` (R143): cell `v` is the `i` in 0..254 with `ppow(g, i) = v`, and cell 0 is 0. -/
def logTab (g : Byte) : Cells Byte 256 :=
  let p := (powers g).take 255
  byteTable fun v => BitVec.ofNat 8 ((p.findIdx? fun e => e == v).getD 0)

/-- `tmul(a, b)` over tables `E`, `L` (R144). -/
def tmul (E L : Cells Byte 256) (a b : Byte) : Byte :=
  if a = 0#8 ∨ b = 0#8 then 0#8
  else cellAt E (BitVec.ofNat 8 (((cellAt L a).toNat + (cellAt L b).toNat) % 255))

/-- `tinv(a)` over tables `E`, `L`, for `a != 0` (R144). -/
def tinv (E L : Cells Byte 256) (a : Byte) : Byte :=
  cellAt E (BitVec.ofNat 8 ((255 - (cellAt L a).toNat) % 255))

/-- `inv0(a)` over tables `E`, `L` (R144): the S-box Builder's convention for 0. -/
def inv0 (E L : Cells Byte 256) (a : Byte) : Byte := if a = 0#8 then 0#8 else tinv E L a

/-- `GFADD rd, rs1, rs2` (R146). -/
def gfaddEffect (rd rs1 rs2 : RegNum) (s : State) : Effect :=
  respondInto s rd (zext32 (s.regByte rs1 ^^^ s.regByte rs2))

/-- The execution of `GFADD` (R292). -/
def execGfadd (rd rs1 rs2 : RegNum) (s : State) : Host.Outcome State Fault Refusal :=
  issue (encode (.gfadd rd rs1 rs2)) (gfaddEffect rd rs1 rs2) s

/-- `GFMUL rd, rs1, rs2` (R147). -/
def gfmulEffect (rd rs1 rs2 : RegNum) (s : State) : Effect :=
  needField s fun s =>
    respondInto s rd (zext32 (tmul s.exp s.log (s.regByte rs1) (s.regByte rs2)))

/-- The execution of `GFMUL` (R292). -/
def execGfmul (rd rs1 rs2 : RegNum) (s : State) : Host.Outcome State Fault Refusal :=
  issue (encode (.gfmul rd rs1 rs2)) (gfmulEffect rd rs1 rs2) s

/-- `GFINV rd, rs1` (R148). -/
def gfinvEffect (rd rs1 : RegNum) (s : State) : Effect :=
  needField s fun s =>
    if s.regByte rs1 = 0#8 then .raise .undefinedInverse 0#32
    else respondInto s rd (zext32 (tinv s.exp s.log (s.regByte rs1)))

/-- The execution of `GFINV` (R292). -/
def execGfinv (rd rs1 : RegNum) (s : State) : Host.Outcome State Fault Refusal :=
  issue (encode (.gfinv rd rs1)) (gfinvEffect rd rs1) s

/-- `GFINVZ rd, rs1` (R149). -/
def gfinvzEffect (rd rs1 : RegNum) (s : State) : Effect :=
  needField s fun s =>
    respondInto s rd (zext32 (inv0 s.exp s.log (s.regByte rs1)))

/-- The execution of `GFINVZ` (R292). -/
def execGfinvz (rd rs1 : RegNum) (s : State) : Host.Outcome State Fault Refusal :=
  issue (encode (.gfinvz rd rs1)) (gfinvzEffect rd rs1) s

/-- `FBUILD rs1` (R145): a whole register above 255 or a byte that is not primitive raises
`InvalidGenerator` with the register's value, and nothing is written. -/
def fbuildEffect (rs1 : RegNum) (s : State) : Effect :=
  match asByte (s.reg rs1) with
  | none => .raise .invalidGenerator (s.reg rs1)
  | some g =>
    if isPrimitive g then
      .respond 0#32
        { s with
          exp := expTab g
          log := logTab g
          gen := g
          status := { s.status with ftv := true } }
    else .raise .invalidGenerator (s.reg rs1)

/-- The execution of `FBUILD` (R292). -/
def execFbuild (rs1 : RegNum) (s : State) : Host.Outcome State Fault Refusal :=
  issue (encode (.fbuild rs1)) (fbuildEffect rs1) s

end Sys2Proof.Machine
end

