-- ==== Sys2Proof/Machine/Sbox.lean ====
section
/-! DEFINITION. The S-box Builder (41_sbox.md): the affine transform, the table builder, the permutation
check, and the commands `MROW`, `MCONST`, `MATV`, `AFF`, `SBUILD`, `SBCHK`. -/

namespace Sys2Proof.Machine

/-- The row `MAT[i]` as the affine transform uses it: bit-reversed when `BORD = 1` (R161). -/
def matRow (mat : Cells Byte 8) (ctrl : BitVec 3) (i : Fin 8) : Byte :=
  if bord ctrl then rev8 (mat.get i) else mat.get i

/-- The output bit that row `i` gives: `i`, or `7 - i` when `RORD = 1` (R161). -/
def rowPosition (ctrl : BitVec 3) (i : Fin 8) : Nat := if rord ctrl then 7 - i.val else i.val

/-- `matv(v)` (R161): the binary matrix-vector product, row by row. -/
def matv (mat : Cells Byte 8) (ctrl : BitVec 3) (v : Byte) : Byte :=
  (List.finRange 8).foldl
    (fun y i =>
      let t := parity (matRow mat ctrl i &&& v)
      y ||| ((BitVec.ofBool t).setWidth 8 <<< rowPosition ctrl i))
    0#8

/-- `matv(v) XOR CONST` (R165). -/
def affine (mat : Cells Byte 8) (const : Byte) (ctrl : BitVec 3) (v : Byte) : Byte :=
  matv mat ctrl v ^^^ const

/-- `sbx(x)` (R160), with the current `MAT`, `CONST`, `CTRL`, `EXP`, `LOG`. -/
def sbx (s : State) (x : Byte) : Byte := affine s.mat s.const s.ctrl (inv0 s.exp s.log x)

/-- `mult(T, v)` (R168): how often `v` stands in `T`. -/
def mult (t : Cells Byte 256) (v : Byte) : Nat := t.toList.countP fun e => e == v

/-- `T` is a permutation: every value occurs exactly once (R168). -/
def isPermutation (t : Cells Byte 256) : Bool := bytes.all fun v => mult t v == 1

/-- `dupval(T)` (R168): the least value that occurs at least twice. -/
def dupval (t : Cells Byte 256) : Byte := (bytes.find? fun v => 2 ≤ mult t v).getD 0#8

/-- `dupcnt(T)` (R168): how many values occur at least twice. -/
def dupcnt (t : Cells Byte 256) : Nat := bytes.countP fun v => 2 ≤ mult t v

/-- `dupinfo(T)` (R168): `dupcnt` in bits 15:8, `dupval` in bits 7:0. -/
def dupinfo (t : Cells Byte 256) : Word := natWord (dupcnt t <<< 8 ||| (dupval t).toNat)

/-- `MROW row, rs1` (R163): the row number is checked first, then the whole register. -/
def mrowEffect (row : Sel) (rs1 : RegNum) (s : State) : Effect :=
  if h : row.toNat < 8 then
    match asByte (s.reg rs1) with
    | none => .raise .validationError (s.reg rs1)
    | some v => .respond 0#32 (s.writeMat ⟨row.toNat, h⟩ v)
  else .raise .validationError (row.setWidth 32)

/-- The execution of `MROW` (R292). -/
def execMrow (row : Sel) (rs1 : RegNum) (s : State) : Host.Outcome State Fault Refusal :=
  issue (encode (.mrow row rs1)) (mrowEffect row rs1) s

/-- `MCONST rs1` (R164). -/
def mconstEffect (rs1 : RegNum) (s : State) : Effect :=
  match asByte (s.reg rs1) with
  | none => .raise .validationError (s.reg rs1)
  | some v => .respond 0#32 { s with const := v }

/-- The execution of `MCONST` (R292). -/
def execMconst (rs1 : RegNum) (s : State) : Host.Outcome State Fault Refusal :=
  issue (encode (.mconst rs1)) (mconstEffect rs1) s

/-- `MATV rd, rs1` (R162). -/
def matvEffect (rd rs1 : RegNum) (s : State) : Effect :=
  respondInto s rd (zext32 (matv s.mat s.ctrl (s.regByte rs1)))

/-- The execution of `MATV` (R292). -/
def execMatv (rd rs1 : RegNum) (s : State) : Host.Outcome State Fault Refusal :=
  issue (encode (.matv rd rs1)) (matvEffect rd rs1) s

/-- `AFF rd, rs1` (R165). -/
def affEffect (rd rs1 : RegNum) (s : State) : Effect :=
  respondInto s rd (zext32 (affine s.mat s.const s.ctrl (s.regByte rs1)))

/-- The execution of `AFF` (R292). -/
def execAff (rd rs1 : RegNum) (s : State) : Host.Outcome State Fault Refusal :=
  issue (encode (.aff rd rs1)) (affEffect rd rs1) s

/-- `SBUILD` (R166): the table is built, checked, and only then written. -/
def sbuildEffect (s : State) : Effect :=
  needField s fun s =>
    let t := byteTable (sbx s)
    if isPermutation t then .respond 0#32 { s.sboxChanged true with sbox := t }
    else .raise .nonBijectiveResult (dupinfo t)

/-- The execution of `SBUILD` (R292). -/
def execSbuild (s : State) : Host.Outcome State Fault Refusal :=
  issue (encode .sbuild) sbuildEffect s

/-- `SBCHK` (R167). -/
def sbchkEffect (s : State) : Effect :=
  if isPermutation s.sbox then .respond 0#32 { s with status := { s.status with sbv := true } }
  else .raise .nonBijectiveResult (dupinfo s.sbox)

/-- The execution of `SBCHK` (R292). -/
def execSbchk (s : State) : Host.Outcome State Fault Refusal :=
  issue (encode .sbchk) sbchkEffect s

end Sys2Proof.Machine
end

