-- ==== Sys2Proof/Machine/System.lean ====
section
/-! DEFINITION. The system and data movement commands (46_system.md R260 to R267). -/

namespace Sys2Proof.Machine

/-- `NOP`: respond 0, change nothing but `CC` (R260). -/
def nopEffect (s : State) : Effect :=
  .respond 0#32 s

/-- The execution of `NOP` (R292). -/
def execNop (s : State) : Host.Outcome State Fault Refusal :=
  issue (encode .nop) nopEffect s

/-- `LI rd, imm16`: zero-extended immediate (R261). -/
def liEffect (rd : RegNum) (imm : BitVec 16) (s : State) : Effect :=
  respondInto s rd (imm.setWidth 32)

/-- The execution of `LI` (R292). -/
def execLi (rd : RegNum) (imm : BitVec 16) (s : State) : Host.Outcome State Fault Refusal :=
  issue (encode (.li rd imm)) (liEffect rd imm) s

/-- `GET rs1`: respond with the register (R262). -/
def getEffect (rs1 : RegNum) (s : State) : Effect :=
  .respond (s.reg rs1) s

/-- The execution of `GET` (R292). -/
def execGet (rs1 : RegNum) (s : State) : Host.Outcome State Fault Refusal :=
  issue (encode (.get rs1)) (getEffect rs1) s

/-- `CSRR rd, csr` (R263): a number not in R43 raises `IllegalCommand` with the command word. -/
def csrrEffect (rd : RegNum) (csr : Sel) (s : State) : Effect :=
  match Csr.ofNumber csr with
  | none => .raise .illegalCommand (encode (.csrr rd csr))
  | some c => respondInto s rd (s.readCsr c)

/-- The execution of `CSRR` (R292). -/
def execCsrr (rd : RegNum) (csr : Sel) (s : State) : Host.Outcome State Fault Refusal :=
  issue (encode (.csrr rd csr)) (csrrEffect rd csr) s

/-- `CSRW csr, rs1` (R264): only `CTRL` (0x002) is writable; `CTRL <- x[rs1][2:0]`. -/
def csrwEffect (csr : Sel) (rs1 : RegNum) (s : State) : Effect :=
  if csr = 0x002#12 then
    let c : BitVec 3 := (s.reg rs1).setWidth 3
    .respond (ctrlWord c) { s with ctrl := c }
  else .raise .illegalCommand (encode (.csrw csr rs1))

/-- The execution of `CSRW` (R292). -/
def execCsrw (csr : Sel) (rs1 : RegNum) (s : State) : Host.Outcome State Fault Refusal :=
  issue (encode (.csrw csr rs1)) (csrwEffect csr rs1) s

/-- `ECLR` (R265). -/
def eclrEffect (s : State) : Effect :=
  .respond 0#32 s.clearException

/-- The execution of `ECLR` (R292). -/
def execEclr (s : State) : Host.Outcome State Fault Refusal :=
  issue (encode .eclr) eclrEffect s

/-- `LDT rd, space, rs1` (R266): the space number is checked first, then the index, the whole 32-bit
register. `WS` cells are sign-extended, all others zero-extended (R58). -/
def ldtEffect (rd : RegNum) (space : Sel) (rs1 : RegNum) (s : State) : Effect :=
  match Space.ofNumber space with
  | none => .raise .illegalCommand (encode (.ldt rd space rs1))
  | some sp =>
    match s.memRead sp (s.reg rs1).toNat with
    | none => .raise .indexRange (s.reg rs1)
    | some c => respondInto s rd (if sp = .ws then sext32 c else natWord c.toNat)

/-- The execution of `LDT` (R292). -/
def execLdt (rd : RegNum) (space : Sel) (rs1 : RegNum) (s : State) : Host.Outcome State Fault Refusal :=
  issue (encode (.ldt rd space rs1)) (ldtEffect rd space rs1) s

/-- `STS rs1, rs2` (R267): the index is checked first, then the value; the S-box becomes unchecked and
every value derived from it becomes invalid. -/
def stsEffect (rs1 rs2 : RegNum) (s : State) : Effect :=
  match asByte (s.reg rs1) with
  | none => .raise .indexRange (s.reg rs1)
  | some idx =>
    match asByte (s.reg rs2) with
    | none => .raise .validationError (s.reg rs2)
    | some v => .respond 0#32 ((s.writeSbox idx v).sboxChanged false)

/-- The execution of `STS` (R292). -/
def execSts (rs1 rs2 : RegNum) (s : State) : Host.Outcome State Fault Refusal :=
  issue (encode (.sts rs1 rs2)) (stsEffect rs1 rs2) s

end Sys2Proof.Machine
end

