-- ==== Sys2Proof/Machine/Dispatch.lean ====
section
/-! DEFINITION. Which meaning each command has: one arm per constructor of `Instr`. -/

namespace Sys2Proof.Machine

/-- The execution of a decoded command in a state (60_exceptions.md R292). -/
def exec (i : Instr) (s : State) : Host.Outcome State Fault Refusal :=
  match i with
  | .nop => Sys2Proof.Machine.execNop s
  | .li rd imm => Sys2Proof.Machine.execLi rd imm s
  | .get rs1 => Sys2Proof.Machine.execGet rs1 s
  | .csrr rd csr => Sys2Proof.Machine.execCsrr rd csr s
  | .csrw csr rs1 => Sys2Proof.Machine.execCsrw csr rs1 s
  | .eclr => Sys2Proof.Machine.execEclr s
  | .ldt rd space rs1 => Sys2Proof.Machine.execLdt rd space rs1 s
  | .sts rs1 rs2 => Sys2Proof.Machine.execSts rs1 rs2 s
  | .gfadd rd rs1 rs2 => Sys2Proof.Machine.execGfadd rd rs1 rs2 s
  | .gfmul rd rs1 rs2 => Sys2Proof.Machine.execGfmul rd rs1 rs2 s
  | .gfinv rd rs1 => Sys2Proof.Machine.execGfinv rd rs1 s
  | .gfinvz rd rs1 => Sys2Proof.Machine.execGfinvz rd rs1 s
  | .fbuild rs1 => Sys2Proof.Machine.execFbuild rs1 s
  | .mrow row rs1 => Sys2Proof.Machine.execMrow row rs1 s
  | .mconst rs1 => Sys2Proof.Machine.execMconst rs1 s
  | .matv rd rs1 => Sys2Proof.Machine.execMatv rd rs1 s
  | .aff rd rs1 => Sys2Proof.Machine.execAff rd rs1 s
  | .sbuild => Sys2Proof.Machine.execSbuild s
  | .sbchk => Sys2Proof.Machine.execSbchk s
  | .wht rd rs1 => Sys2Proof.Machine.execWht rd rs1 s
  | .nlset => Sys2Proof.Machine.execNlset s
  | .bicnl => Sys2Proof.Machine.execBicnl s
  | .sac => Sys2Proof.Machine.execSac s
  | .bicsac => Sys2Proof.Machine.execBicsac s
  | .ddtr rd rs1 => Sys2Proof.Machine.execDdtr rd rs1 s
  | .dap => Sys2Proof.Machine.execDap s
  | .latc rd rs1 => Sys2Proof.Machine.execLatc rd rs1 s
  | .lap => Sys2Proof.Machine.execLap s
  | .analyze => Sys2Proof.Machine.execAnalyze s
  | .snap => Sys2Proof.Machine.execSnap s
  | .cmp rd metric => Sys2Proof.Machine.execCmp rd metric s

end Sys2Proof.Machine
end

