-- ==== Sys2Proof/Machine/Run.lean ====
section
/-! DEFINITION. What the sequencer does with one host input: a command word is decoded and executed, a
reset assertion resets, and with no input the block is idle (R15, R292, R315, R330). -/

namespace Sys2Proof.Machine

/-- The execution of one command word (R292): the command it decodes to, or `IllegalCommand`. -/
def runWord (w : Word) (s : State) : Host.Outcome State Fault Refusal :=
  match decode w with
  | .ok i => exec i s
  | .error _ => issueIllegal w s

/-- The reset event (R330, R331): the whole state becomes the reset state. What the host does next and
the responses it has had are its own and stay (log 3). -/
def State.resetByHost (s : State) : State :=
  { State.reset with input := s.input, responses := s.responses }

/-- One step of the sequencer: the oldest host input is taken and acted on. With no input the block
holds its state (R315, log 3). -/
def sequence (s : State) : Host.Outcome State Fault Refusal :=
  match s.input with
  | [] => .next s
  | .command w :: rest => runWord w { s with input := rest }
  | .reset :: rest => .next (State.resetByHost { s with input := rest })

/-- The host sends `w` before whatever it does next. -/
def State.sendFirst (s : State) (w : Word) : State := { s with input := .command w :: s.input }

end Sys2Proof.Machine
end

