-- ==== Sys2Proof/Machine/Step.lean ====
section
/-! DEFINITION. The step of SBRA-CORE, and the placing of one command word where the step takes it. -/

namespace Sys2Proof.Machine

/-- One step: one host input (R15, R16, R292). -/
def step (s : State) : Host.Outcome State Fault Refusal := sequence s

/-- The state with an opcode-table word as the next command the host sends (log 4). -/
def State.withFetchWord (s : State) (nbits w : Nat) : State := s.sendFirst (tableWord nbits w)

end Sys2Proof.Machine
end

