-- ==== Sys2Proof/Safety.lean ====
section
/-! DEFINITION. The terms claims are stated in. First the formulas of the rules, written over sets of
bytes and of bit numbers as the spec writes them, apart from the lists and loops the machine computes
with. Then the three ways a command word ends. Then what a good state is: the invariants of 10_state.md
R60 and the ranges of R53, R55 and R58. -/

namespace Sys2Proof.Spec

open Sys2Proof.Machine

/-! ### Command table (30_encoding.md) -/

/-- A row of the command table: a word is the row's command exactly when `(w AND mask) = match` (R115). -/
structure CommandRow where
  mnemonic : String
  pattern : Word
  mask : Word
deriving DecidableEq, Repr

/-- The command table, `match` and `mask` as R115 prints them. -/
def commandTable : List CommandRow :=
  [⟨"NOP", 0x00000000#32, 0xFFFFFFFF#32⟩,
   ⟨"LI", 0x01000000#32, 0xFF0F0000#32⟩,
   ⟨"GET", 0x02000000#32, 0xFFF0FFFF#32⟩,
   ⟨"CSRR", 0x03000000#32, 0xFF0FF000#32⟩,
   ⟨"CSRW", 0x04000000#32, 0xFFF0F000#32⟩,
   ⟨"ECLR", 0x05000000#32, 0xFFFFFFFF#32⟩,
   ⟨"LDT", 0x06000000#32, 0xFF00F000#32⟩,
   ⟨"STS", 0x07000000#32, 0xFFF00FFF#32⟩,
   ⟨"GFADD", 0x10000000#32, 0xFF000FFF#32⟩,
   ⟨"GFMUL", 0x11000000#32, 0xFF000FFF#32⟩,
   ⟨"GFINV", 0x12000000#32, 0xFF00FFFF#32⟩,
   ⟨"GFINVZ", 0x13000000#32, 0xFF00FFFF#32⟩,
   ⟨"FBUILD", 0x14000000#32, 0xFFF0FFFF#32⟩,
   ⟨"MROW", 0x20000000#32, 0xFFF0F000#32⟩,
   ⟨"MCONST", 0x21000000#32, 0xFFF0FFFF#32⟩,
   ⟨"MATV", 0x22000000#32, 0xFF00FFFF#32⟩,
   ⟨"AFF", 0x23000000#32, 0xFF00FFFF#32⟩,
   ⟨"SBUILD", 0x24000000#32, 0xFFFFFFFF#32⟩,
   ⟨"SBCHK", 0x25000000#32, 0xFFFFFFFF#32⟩,
   ⟨"WHT", 0x30000000#32, 0xFF00FFFF#32⟩,
   ⟨"NLSET", 0x31000000#32, 0xFFFFFFFF#32⟩,
   ⟨"BICNL", 0x32000000#32, 0xFFFFFFFF#32⟩,
   ⟨"SAC", 0x40000000#32, 0xFFFFFFFF#32⟩,
   ⟨"BICSAC", 0x41000000#32, 0xFFFFFFFF#32⟩,
   ⟨"DDTR", 0x50000000#32, 0xFF00FFFF#32⟩,
   ⟨"DAP", 0x51000000#32, 0xFFFFFFFF#32⟩,
   ⟨"LATC", 0x52000000#32, 0xFF00FFFF#32⟩,
   ⟨"LAP", 0x53000000#32, 0xFFFFFFFF#32⟩,
   ⟨"ANALYZE", 0x60000000#32, 0xFFFFFFFF#32⟩,
   ⟨"SNAP", 0x61000000#32, 0xFFFFFFFF#32⟩,
   ⟨"CMP", 0x62000000#32, 0xFF0FF000#32⟩]

/-- The word is the encoding of the named command (R115). -/
def Matches (mnemonic : String) (w : Word) : Prop :=
  ∃ row ∈ commandTable, row.mnemonic = mnemonic ∧ w &&& row.mask = row.pattern

/-- The op byte of a word, bits 31:24 (R112). -/
def op (w : Word) : Nat := w.toNat / 2 ^ 24

/-- The `sel` field of a word, bits 11:0 (R112). -/
def sel (w : Word) : Nat := w.toNat % 2 ^ 12

/-- A CSR number of the map of R43. -/
def IsCsrNumber (n : Nat) : Prop :=
  n ≤ 0x00C ∨ (0x100 ≤ n ∧ n ≤ 0x10D) ∨ (0x200 ≤ n ∧ n ≤ 0x20D) ∨ (0x300 ≤ n ∧ n ≤ 0x303)

/-- A metric number that `CMP` accepts (R245). -/
def IsMetricNumber (n : Nat) : Prop := (1 ≤ n ∧ n ≤ 7) ∨ (11 ≤ n ∧ n ≤ 13)

/-- An illegal word (R117): (a) and (b) no row of the command table matches it, or (c) it has a `sel` its
command does not accept. -/
def IsIllegal (w : Word) : Prop :=
  (∀ row ∈ commandTable, w &&& row.mask ≠ row.pattern)
    ∨ (op w = 0x03 ∧ ¬ IsCsrNumber (sel w))
    ∨ (op w = 0x04 ∧ sel w ≠ 0x002)
    ∨ (op w = 0x06 ∧ 9 ≤ sel w)
    ∨ (op w = 0x62 ∧ ¬ IsMetricNumber (sel w))

/-- The word of format X with these fields (R112). -/
def wordX (op : Nat) (rd rs1 rs2 : Nat) (sel : Nat) : Word :=
  BitVec.ofNat 32 (op * 2 ^ 24 + rd * 2 ^ 20 + rs1 * 2 ^ 16 + rs2 * 2 ^ 12 + sel)

/-- The word of format I with these fields (R113). -/
def wordI (op : Nat) (rd : Nat) (imm : Nat) : Word := BitVec.ofNat 32 (op * 2 ^ 24 + rd * 2 ^ 20 + imm)

/-! ### Bits (00_scope.md R10, R11) -/

/-- `v[7:0]` of a register (R33). -/
def low8 (v : Word) : Byte := BitVec.ofNat 8 v.toNat

/-- `zext_32` of a byte (R11). -/
def zext (v : Byte) : Word := BitVec.ofNat 32 v.toNat

/-- The parity of the number of bit numbers with a property. -/
def odd (p : Fin 8 → Bool) : Bool := (Finset.univ.filter fun k => p k = true).card % 2 == 1

/-- `parity(v)`: the number of 1 bits modulo 2 (R11). -/
def parity (v : Byte) : Bool := odd fun k => v.getLsbD k.val

/-- The byte `2^i`. -/
def bit (i : Fin 8) : Byte := BitVec.ofNat 8 (2 ^ i.val)

/-! ### Field (40_field.md) -/

/-- `g` is a primitive element: `ord(g) = 255`, the least positive power that is 1 is the 255th (R142). -/
def Primitive (g : Byte) : Prop :=
  ppow g 255 = 1#8 ∧ ∀ k, 0 < k → k < 255 → ppow g k ≠ 1#8

/-- `E` and `L` are the tables of `g` (R143). -/
def IsTables (g : Byte) (E L : Byte → Byte) : Prop :=
  (∀ i, i < 256 → E (BitVec.ofNat 8 i) = ppow g i)
    ∧ (∀ i, i < 255 → L (ppow g i) = BitVec.ofNat 8 i)
    ∧ L 0#8 = 0#8

/-- `tmul(a, b)` over tables `E`, `L` (R144). -/
def tmul (E L : Byte → Byte) (a b : Byte) : Byte :=
  if a = 0#8 ∨ b = 0#8 then 0#8 else E (BitVec.ofNat 8 (((L a).toNat + (L b).toNat) % 255))

/-- `tinv(a)` over tables `E`, `L` (R144). -/
def tinv (E L : Byte → Byte) (a : Byte) : Byte := E (BitVec.ofNat 8 ((255 - (L a).toNat) % 255))

/-- `inv0(a)` over tables `E`, `L` (R144). -/
def inv0 (E L : Byte → Byte) (a : Byte) : Byte := if a = 0#8 then 0#8 else tinv E L a

/-! ### S-box (41_sbox.md) -/

/-- The bit a matrix row makes of a vector. Bit `k` of the row multiplies input bit `k`, or input bit
`7 - k` when `BORD = 1` (R46, R161). -/
def rowBit (bord : Bool) (row v : Byte) : Bool :=
  odd fun k => row.getLsbD k.val && v.getLsbD (if bord then 7 - k.val else k.val)

/-- `y = matv(v)`: row `i` makes output bit `i`, or output bit `7 - i` when `RORD = 1` (R46, R161). -/
def IsMatv (mat : Cells Byte 8) (ctrl : BitVec 3) (v y : Byte) : Prop :=
  ∀ i : Fin 8, y.getLsbD (if ctrl.getLsbD 0 then 7 - i.val else i.val)
    = rowBit (ctrl.getLsbD 1) (mat.get i) v

/-- `y = sbx(x)`: `matv(inv0(x)) XOR CONST` in a state (R160). -/
def IsSbx (s : State) (x y : Byte) : Prop :=
  IsMatv s.mat s.ctrl (inv0 (cellAt s.exp) (cellAt s.log) x) (y ^^^ s.const)

/-- `mult(T, v) = #{ x | T[x] = v }` (R168). -/
def mult (T : Byte → Byte) (v : Byte) : Nat := (Finset.univ.filter fun x : Byte => T x = v).card

/-- `T` is a permutation: `mult(T, v) = 1` for every `v` (R168). -/
def Permutation (T : Byte → Byte) : Prop := ∀ v, mult T v = 1

/-- `dupcnt(T) = #{ v | mult(T, v) >= 2 }` (R168). -/
def dupcnt (T : Byte → Byte) : Nat := (Finset.univ.filter fun v : Byte => 2 ≤ mult T v).card

/-- `v = dupval(T)`: the least value of multiplicity at least 2 (R168). -/
def IsDupval (T : Byte → Byte) (v : Byte) : Prop := 2 ≤ mult T v ∧ ∀ u, 2 ≤ mult T u → v ≤ u

/-- `w = dupinfo(T)`: `dupcnt` in bits 15:8, `dupval` in bits 7:0 (R168). -/
def IsDupinfo (T : Byte → Byte) (w : Word) : Prop :=
  ∃ v, IsDupval T v ∧ w = BitVec.ofNat 32 (dupcnt T * 256 + v.toNat)

/-! ### Spectra (42_spectral.md) -/

/-- `f(b, x) = parity(b AND SBOX[x])` (R180). -/
def f (S : Byte → Byte) (b x : Byte) : Bool := parity (b &&& S x)

/-- `walsh(b, a)`: the sum over all inputs of +1 where `f(b, x) XOR parity(a AND x) = 0`, else -1 (R181). -/
def walsh (S : Byte → Byte) (b a : Byte) : Int :=
  ∑ x : Byte, if (f S b x ^^ parity (a &&& x)) = false then (1 : Int) else -1

/-- `maxw(b) = max over a of |walsh(b, a)|` (R181). -/
def maxw (S : Byte → Byte) (b : Byte) : Nat := Finset.univ.sup fun a : Byte => (walsh S b a).natAbs

/-- `nl(b) = 128 - maxw(b) / 2` (R181). -/
def nl (S : Byte → Byte) (b : Byte) : Nat := 128 - maxw S b / 2

/-- The 255 non-zero bytes. -/
def nonzero : Finset Byte := Finset.univ.filter fun b => b ≠ 0#8

/-- The 28 pairs `(i, k)`, `0 <= i < k <= 7` (R184, R204). -/
def pairs : Finset (Fin 8 × Fin 8) := Finset.univ.filter fun p => p.1 < p.2

/-- The selector `2^i OR 2^k` of a pair (R180). -/
def selector (p : Fin 8 × Fin 8) : Byte := bit p.1 ||| bit p.2

/-- `m` is the least value of `g` on the set. -/
def IsMin {α : Type} (s : Finset α) (g : α → Nat) (m : Nat) : Prop := IsLeast (g '' ↑s) m

/-- `m` is the greatest value of `g` on the set. -/
def IsMax {α : Type} (s : Finset α) (g : α → Nat) (m : Nat) : Prop := IsGreatest (g '' ↑s) m

/-! ### Avalanche (43_avalanche.md) -/

/-- `dflip(j, x) = SBOX[x] XOR SBOX[x XOR 2^j]` (R200). -/
def dflip (S : Byte → Byte) (j : Fin 8) (x : Byte) : Byte := S x ^^^ S (x ^^^ bit j)

/-- `sac(j, i)` (R201). -/
def sac (S : Byte → Byte) (j i : Fin 8) : Nat :=
  (Finset.univ.filter fun x : Byte => (dflip S j x).getLsbD i.val = true).card

/-- `bcnt(i, k, j)` (R203). -/
def bcnt (S : Byte → Byte) (i k j : Fin 8) : Nat :=
  (Finset.univ.filter fun x : Byte => (dflip S j x).getLsbD i.val ≠ (dflip S j x).getLsbD k.val).card

/-- `bsum(i, k)` (R203). -/
def bsum (S : Byte → Byte) (i k : Fin 8) : Nat := if i = k then 0 else ∑ j, bcnt S i k j

/-- The sum of the 28 pair sums (R204). -/
def bsTotal (S : Byte → Byte) : Nat := ∑ p ∈ pairs, bsum S p.1 p.2

/-- `base`: 28672 for the baseline 0.5 (`BICBASE = 0`), 14336 for 0.25 (`BICBASE = 1`) (R204). -/
def base (quarter : Bool) : Nat := if quarter then 14336 else 28672

/-- `|s - base|` for the total of the pair sums (R204). -/
def bsDev (S : Byte → Byte) (quarter : Bool) : Nat := ((bsTotal S : Int) - (base quarter : Int)).natAbs

/-! ### Approximation (44_approximation.md) -/

/-- `ddt(dx, dy)` (R216). -/
def ddt (S : Byte → Byte) (dx dy : Byte) : Nat :=
  (Finset.univ.filter fun x : Byte => S (x ^^^ dx) ^^^ S x = dy).card

/-- `lat(a, b)` (R219). -/
def lat (S : Byte → Byte) (a b : Byte) : Nat :=
  (Finset.univ.filter fun x : Byte => parity (a &&& x) = parity (b &&& S x)).card

/-- `|lat(a, b) - 128|` (R220, R221). -/
def bias (S : Byte → Byte) (a b : Byte) : Nat := ((lat S a b : Int) - 128).natAbs

/-! ### Reports (10_state.md R52 to R54, 45_aggregate.md) -/

/-- The report registers `NLSET` writes hold its values for the S-box `S` (R183). -/
def IsNlReport (S : Byte → Byte) (r : Report) : Prop :=
  IsMin nonzero (nl S) r.nlMin.toNat ∧ IsMax nonzero (nl S) r.nlMax.toNat
    ∧ r.nlSum.toNat = ∑ b ∈ nonzero, nl S b

/-- The report registers `BICNL` writes hold its values for the S-box `S` (R184). -/
def IsBnReport (S : Byte → Byte) (r : Report) : Prop :=
  IsMin pairs (fun p => nl S (selector p)) r.bnMin.toNat
    ∧ IsMax pairs (fun p => nl S (selector p)) r.bnMax.toNat
    ∧ r.bnSum.toNat = ∑ p ∈ pairs, nl S (selector p)

/-- The matrix and the report register `SAC` writes hold their values for the S-box `S` (R202). -/
def IsSacReport (S : Byte → Byte) (m : Cells Nat 64) (r : Report) : Prop :=
  (∀ j i : Fin 8, m.get? (j.val * 8 + i.val) = some (sac S j i))
    ∧ r.sacSum.toNat = ∑ j, ∑ i, sac S j i

/-- The matrix and the report registers `BICSAC` writes hold their values for the S-box `S`, with the
baseline that `BSBASE` records (R204). -/
def IsBsReport (S : Byte → Byte) (m : Cells Nat 64) (r : Report) : Prop :=
  (∀ i k : Fin 8, m.get? (i.val * 8 + k.val) = some (bsum S i k))
    ∧ IsMin pairs (fun p => bsum S p.1 p.2) r.bsMin.toNat
    ∧ IsMax pairs (fun p => bsum S p.1 p.2) r.bsMax.toNat
    ∧ r.bsSum.toNat = bsTotal S
    ∧ r.bsDev.toNat = bsDev S r.valid.bsBase

/-- `LAP_MAX` holds its value for the S-box `S` (R221). -/
def IsLapReport (S : Byte → Byte) (r : Report) : Prop :=
  IsMax (nonzero ×ˢ nonzero) (fun p => bias S p.1 p.2) r.lapMax.toNat

/-- `DAP_MAX` holds its value for the S-box `S` (R218). -/
def IsDapReport (S : Byte → Byte) (r : Report) : Prop :=
  IsMax (nonzero ×ˢ Finset.univ) (fun p => ddt S p.1 p.2) r.dapMax.toNat

/-- `RVALID` as a word (R52). -/
def rvalidWord (v : ReportValid) : Word :=
  BitVec.ofNat 32 (v.nl.toNat + 2 * v.bn.toNat + 4 * v.sac.toNat + 8 * v.bs.toNat + 16 * v.lap.toNat
    + 32 * v.dap.toNat + 256 * v.bsBase.toNat)

/-- `RVALID` with every bit 0. -/
def noneValid : ReportValid :=
  { nl := false, bn := false, sac := false, bs := false, lap := false, dap := false, bsBase := false }

/-- `RVALID` with the six valid bits 1 and `BSBASE` as given. -/
def allValid (quarter : Bool) : ReportValid :=
  { nl := true, bn := true, sac := true, bs := true, lap := true, dap := true, bsBase := quarter }

/-- The register of the metric number `m` and the valid bit it needs; none for a number that is not
comparable (R245). -/
def metric (m : Nat) : Option ((Report → Word) × (ReportValid → Bool)) :=
  match m with
  | 1 => some (Report.nlMin, ReportValid.nl)
  | 2 => some (Report.nlMax, ReportValid.nl)
  | 3 => some (Report.nlSum, ReportValid.nl)
  | 4 => some (Report.bnMin, ReportValid.bn)
  | 5 => some (Report.bnMax, ReportValid.bn)
  | 6 => some (Report.bnSum, ReportValid.bn)
  | 7 => some (Report.sacSum, ReportValid.sac)
  | 11 => some (Report.bsDev, ReportValid.bs)
  | 12 => some (Report.lapMax, ReportValid.lap)
  | 13 => some (Report.dapMax, ReportValid.dap)
  | _ => none

/-- The key of metric number `m`: the lower key is preferred (R245). -/
def key (m : Nat) (v : Word) : Int :=
  if m ≤ 6 then -(v.toNat : Int) else if m = 7 then |(v.toNat : Int) - 8192| else (v.toNat : Int)

/-- The winner code: 0 for equal keys, 1 for bank A, 2 for bank B (R245). -/
def win (ka kb : Int) : Nat := if ka = kb then 0 else if ka < kb then 1 else 2

/-! ### Control and status registers, table spaces (10_state.md, 20_memory.md) -/

/-- `STATUS` as a word (R45). -/
def statusWord (f : Status) : Word :=
  BitVec.ofNat 32 (f.err.toNat + 2 * f.ftv.toNat + 4 * f.sbv.toNat + 8 * f.wsv.toNat + 16 * f.drv.toNat
    + 32 * f.lcv.toNat)

/-- The 14 registers of a bank by their offset: `RVALID` at 0, then the report registers (R43, R54). -/
def bankValue (r : Report) : Nat → Option Word
  | 0x0 => some (rvalidWord r.valid)
  | 0x1 => some r.nlMin
  | 0x2 => some r.nlMax
  | 0x3 => some r.nlSum
  | 0x4 => some r.bnMin
  | 0x5 => some r.bnMax
  | 0x6 => some r.bnSum
  | 0x7 => some r.sacSum
  | 0x8 => some r.bsMin
  | 0x9 => some r.bsMax
  | 0xA => some r.bsSum
  | 0xB => some r.bsDev
  | 0xC => some r.lapMax
  | 0xD => some r.dapMax
  | _ => none

/-- The single registers 0x000 to 0x00C and 0x300 to 0x303 (R43 to R51, R55). -/
def singleValue (s : State) : Nat → Option Word
  | 0x000 => some 0x53420001#32
  | 0x001 => some (statusWord s.status)
  | 0x002 => some (BitVec.ofNat 32 s.ctrl.toNat)
  | 0x003 => some s.cc
  | 0x004 => some (zext s.record.ecause)
  | 0x005 => some s.record.einfo
  | 0x006 => some s.record.ecmd
  | 0x007 => some s.record.ecc
  | 0x008 => some (zext s.gen)
  | 0x009 => some (zext s.const)
  | 0x00A => some (zext s.wstag)
  | 0x00B => some (zext s.drtag)
  | 0x00C => some (zext s.lctag)
  | 0x300 => some (BitVec.ofNat 32 s.cmp.win.toNat)
  | 0x301 => some s.cmp.a
  | 0x302 => some s.cmp.b
  | 0x303 => some s.cmp.delta
  | _ => none

/-- The 32-bit value of CSR number `n`; none for a number that is not in the map of R43. -/
def csrValue (s : State) (n : Nat) : Option Word :=
  if 0x100 ≤ n ∧ n < 0x200 then bankValue s.bankA (n - 0x100)
  else if 0x200 ≤ n ∧ n < 0x300 then bankValue s.bankB (n - 0x200)
  else singleValue s n

/-- The number of cells of a space; none for a reserved number (R82). -/
def spaceSize (n : Nat) : Option Nat :=
  if n = 3 then some 8 else if n = 7 ∨ n = 8 then some 64 else if n ≤ 6 then some 256 else none

/-- What `LDT` of a cell gives: the cell zero-extended, or sign-extended for `WS` (R58, R82). -/
def cellWord (s : State) (space idx : Nat) : Option Word :=
  match space with
  | 0 => (s.exp.get? idx).map zext
  | 1 => (s.log.get? idx).map zext
  | 2 => (s.sbox.get? idx).map zext
  | 3 => (s.mat.get? idx).map zext
  | 4 => (s.ws.get? idx).map (BitVec.ofInt 32)
  | 5 => (s.dr.get? idx).map (BitVec.ofNat 32)
  | 6 => (s.lc.get? idx).map (BitVec.ofNat 32)
  | 7 => (s.sacm.get? idx).map (BitVec.ofNat 32)
  | 8 => (s.bsm.get? idx).map (BitVec.ofNat 32)
  | _ => none

/-! ### How a command word ends (60_exceptions.md R290, R292) -/

/-- It ends normally: response (0, data), in the state `t` that its writes give, and `CC` advances. -/
def answers (data : Word) (t : State) : Host.Outcome State Fault Refusal :=
  .next { t with cc := t.cc + 1#32, responses := t.responses ++ [{ status := 0#8, data := data }] }

/-- Code 1 of R290. -/
def illegalCommand : BitVec 8 := 1#8
/-- Code 2 of R290. -/
def invalidGenerator : BitVec 8 := 2#8
/-- Code 3 of R290. -/
def validationError : BitVec 8 := 3#8
/-- Code 4 of R290. -/
def nonBijectiveResult : BitVec 8 := 4#8
/-- Code 5 of R290. -/
def undefinedInverse : BitVec 8 := 5#8
/-- Code 6 of R290. -/
def fieldNotReady : BitVec 8 := 6#8
/-- Code 7 of R290. -/
def sboxNotValid : BitVec 8 := 7#8
/-- Code 8 of R290. -/
def indexRange : BitVec 8 := 8#8
/-- Code 9 of R290. -/
def reportNotValid : BitVec 8 := 9#8
/-- Code 10 of R290. -/
def blocked : BitVec 8 := 10#8

/-- The word `w` raises the exception with this code and `info`: its writes are discarded; the exception is
latched if none is; response (code, info), and `CC` advances (R292, R296, R299). -/
def raises (s : State) (code : BitVec 8) (info w : Word) : Host.Outcome State Fault Refusal :=
  if s.status.err = false then
    .next { s with
      status := { s.status with err := true }
      record := { ecause := code, einfo := info, ecmd := w, ecc := s.cc }
      cc := s.cc + 1#32
      responses := s.responses ++ [{ status := code, data := info }] }
  else
    .next { s with
      cc := s.cc + 1#32
      responses := s.responses ++ [{ status := code, data := info }] }

/-- The commands executed one after another, each in the state the one before it left. -/
def runAll : List Instr → State → Host.Outcome State Fault Refusal
  | [], s => .next s
  | i :: is, s =>
    match exec i s with
    | .next t => runAll is t
    | .fault r => .fault r
    | .refused r => .refused r

/-- An op byte that runs in the blocked state: `NOP`, `GET`, `CSRR`, `ECLR`, `LDT` (R298). -/
def RunsBlocked (w : Word) : Prop :=
  op w = 0x00 ∨ op w = 0x02 ∨ op w = 0x03 ∨ op w = 0x05 ∨ op w = 0x06

/-- The destination register of a command: the one its rule names as `rd` (R32, R115). -/
def dest : Instr → Option RegNum
  | .li rd _ | .csrr rd _ | .ldt rd _ _ | .gfadd rd _ _ | .gfmul rd _ _ | .gfinv rd _ | .gfinvz rd _
  | .matv rd _ | .aff rd _ | .wht rd _ | .ddtr rd _ | .latc rd _ | .cmp rd _ => some rd
  | .nop | .get _ | .csrw _ _ | .eclr | .sts _ _ | .fbuild _ | .mrow _ _ | .mconst _ | .sbuild | .sbchk
  | .nlset | .bicnl | .sac | .bicsac | .dap | .lap | .analyze | .snap => none

/-- A flag goes from 0 to 1 only if `up`, and from 1 to 0 only if `down`. -/
def Switches (old new : Bool) (up down : Prop) : Prop :=
  (old = false → new = true → up) ∧ (old = true → new = false → down)

/-- It is refused in the blocked state: response (10, 0), and nothing changes but `CC` (R298). -/
def refuses (s : State) : Host.Outcome State Fault Refusal :=
  .next { s with cc := s.cc + 1#32, responses := s.responses ++ [{ status := blocked, data := 0#32 }] }

end Sys2Proof.Spec

namespace Sys2Proof.Machine

/-! ### Good states -/

/-- The exception record (R60.5, R48): a cause is recorded exactly while `ERR = 1`, it is one of the codes
1 to 9, and with none latched the whole record is 0. -/
structure RecordInv (s : State) : Prop where
  cause_iff_err : s.record.ecause ≠ 0#8 ↔ s.status.err = true
  cause_le : s.record.ecause ≤ 9#8
  cleared : s.status.err = false → s.record = ExceptionRecord.cleared

/-- The field tables (R60.1, R60.2): with `FTV = 1` they are the tables of a primitive generator, with
`FTV = 0` they are all 0. -/
structure FieldInv (s : State) : Prop where
  valid : s.status.ftv = true → Spec.Primitive s.gen ∧ Spec.IsTables s.gen (cellAt s.exp) (cellAt s.log)
  invalid : s.status.ftv = false →
    s.gen = 0#8 ∧ s.exp = Cells.fill 256 0#8 ∧ s.log = Cells.fill 256 0#8

/-- The S-box (R60.3): with `SBV = 1` it is a permutation. -/
def SboxInv (s : State) : Prop := s.status.sbv = true → Spec.Permutation (cellAt s.sbox)

/-- A valid bit is set only while the S-box is valid (R60.4). -/
def ValidBitsInv (s : State) : Prop :=
  (s.status.wsv || s.status.drv || s.status.lcv || s.bankA.valid.nl || s.bankA.valid.bn
    || s.bankA.valid.sac || s.bankA.valid.bs || s.bankA.valid.lap || s.bankA.valid.dap) = true →
  s.status.sbv = true

/-- The values behind a set valid bit are those of their defining formulas for the S-box in `SBOX`
(R60.4, with the formulas of R181, R183, R184, R202, R204, R216 to R221). -/
structure DerivedInv (s : State) : Prop where
  ws : s.status.wsv = true → ∀ a, cellAt s.ws a = Spec.walsh (cellAt s.sbox) s.wstag a
  dr : s.status.drv = true → ∀ dy, cellAt s.dr dy = Spec.ddt (cellAt s.sbox) s.drtag dy
  lc : s.status.lcv = true → ∀ a, cellAt s.lc a = Spec.lat (cellAt s.sbox) a s.lctag
  nl : s.bankA.valid.nl = true → Spec.IsNlReport (cellAt s.sbox) s.bankA
  bn : s.bankA.valid.bn = true → Spec.IsBnReport (cellAt s.sbox) s.bankA
  sac : s.bankA.valid.sac = true → Spec.IsSacReport (cellAt s.sbox) s.sacm s.bankA
  bs : s.bankA.valid.bs = true → Spec.IsBsReport (cellAt s.sbox) s.bsm s.bankA
  lap : s.bankA.valid.lap = true → Spec.IsLapReport (cellAt s.sbox) s.bankA
  dap : s.bankA.valid.dap = true → Spec.IsDapReport (cellAt s.sbox) s.bankA

/-- The cells of the computed spaces are in the ranges of R58, whether their valid bit is set or not. -/
structure CellRangeInv (s : State) : Prop where
  ws : ∀ a, -256 ≤ cellAt s.ws a ∧ cellAt s.ws a ≤ 256 ∧ Even (cellAt s.ws a)
  dr : ∀ dy, cellAt s.dr dy ≤ 256 ∧ Even (cellAt s.dr dy)
  lc : ∀ a, cellAt s.lc a ≤ 256
  sacm : ∀ n, s.sacm.get n ≤ 256 ∧ Even (s.sacm.get n)
  bsm : ∀ n, s.bsm.get n ≤ 2048 ∧ Even (s.bsm.get n)
  bsm_diagonal : ∀ i : Fin 8, s.bsm.get? (i.val * 8 + i.val) = some 0

/-- The 13 registers of a bank are in the ranges of R53, whether their valid bit is set or not. The bound 120 of
a nonlinearity, which R53 marks as general knowledge, follows from Parseval's relation (R185). -/
structure ReportRange (r : Report) : Prop where
  nlMin : r.nlMin ≤ 120#32
  nlMax : r.nlMax ≤ 120#32
  nlSum : r.nlSum ≤ 30600#32
  bnMin : r.bnMin ≤ 120#32
  bnMax : r.bnMax ≤ 120#32
  bnSum : r.bnSum ≤ 3360#32
  sacSum : r.sacSum ≤ 16384#32
  bsMin : r.bsMin ≤ 2048#32
  bsMax : r.bsMax ≤ 2048#32
  bsSum : r.bsSum ≤ 57344#32
  bsDev : r.bsDev ≤ 43008#32
  lapMax : r.lapMax ≤ 128#32
  dapMax : r.dapMax ≤ 256#32

/-- The comparison registers (R55): the winner code is never 3 and the delta is the difference. -/
structure CompareInv (s : State) : Prop where
  win_ne : s.cmp.win ≠ 3#2
  delta : s.cmp.delta = s.cmp.a - s.cmp.b

/-- A good state: all of R60 with the ranges of R53, R55 and R58. -/
structure State.Inv (s : State) : Prop where
  record : RecordInv s
  field : FieldInv s
  sbox : SboxInv s
  validBits : ValidBitsInv s
  derived : DerivedInv s
  cells : CellRangeInv s
  bankA : ReportRange s.bankA
  bankB : ReportRange s.bankB
  compare : CompareInv s

end Sys2Proof.Machine
end

