-- ==== Sys2Proof/WellFormed.lean ====
section
/-! DEFINITION. When a command's selector is one the command accepts (30_encoding.md R115, last
paragraph, and R117 (c)). Register numbers and immediates are in range by their types. -/

namespace Sys2Proof

/-- The CSR numbers of 10_state.md R43: 0x000 to 0x00C, 0x100 to 0x10D, 0x200 to 0x20D, 0x300 to 0x303. -/
def csrNumberLegal (n : Sel) : Bool :=
  n ≤ 0x00C#12 || (0x100#12 ≤ n && n ≤ 0x10D#12) || (0x200#12 ≤ n && n ≤ 0x20D#12)
    || (0x300#12 ≤ n && n ≤ 0x303#12)

/-- The metric numbers `CMP` accepts (R245): 1 to 7 and 11 to 13. -/
def metricNumberLegal (n : Sel) : Bool :=
  (1#12 ≤ n && n ≤ 7#12) || (11#12 ≤ n && n ≤ 13#12)

/-- The command is a legal word: its selector is one it accepts (R117). `MROW` accepts every `sel`
as an encoding (R115). -/
def Instr.wellFormed : Instr → Bool
  | .csrr _ csr => csrNumberLegal csr
  | .csrw csr _ => csr == 0x002#12
  | .ldt _ space _ => space ≤ 8#12
  | .cmp _ metric => metricNumberLegal metric
  | .nop => true
  | .li _ _ => true
  | .get _ => true
  | .eclr => true
  | .sts _ _ => true
  | .gfadd _ _ _ => true
  | .gfmul _ _ _ => true
  | .gfinv _ _ => true
  | .gfinvz _ _ => true
  | .fbuild _ => true
  | .mrow _ _ => true
  | .mconst _ => true
  | .matv _ _ => true
  | .aff _ _ => true
  | .sbuild => true
  | .sbchk => true
  | .wht _ _ => true
  | .nlset => true
  | .bicnl => true
  | .sac => true
  | .bicsac => true
  | .ddtr _ _ => true
  | .dap => true
  | .latc _ _ => true
  | .lap => true
  | .analyze => true
  | .snap => true

end Sys2Proof
end

