-- ==== Sys2Proof/Certificates/Slice0/Obligations.lean ====
section
/-! DEFINITION. The statements for the provers. Each formalises what rules of spec/ say a command or the
machine does, in the terms of Sys2Proof/Safety.lean. A rule's command gets one statement: its encoding, what it
does when the unit is not blocked, when it raises and what, and what it does when the unit is blocked. The
next state is given whole, so that everything not named in it is unchanged. -/

section Statements

open Sys2Proof Sys2Proof.Machine

/-! ### System and data movement (46_system.md) -/

/-- R260: `NOP` is the word 0 and no other; in every state, blocked or not, it responds 0 and changes nothing
but `CC`. -/
def Obligations.NopChangesOnlyCC : Prop :=
  (∀ w, decode w = .ok .nop ↔ w = 0x00000000#32)
    ∧ ∀ s, exec .nop s = Spec.answers 0#32 s

/-- R261: `LI` writes the zero-extended immediate to `x[rd]` and responds with it. -/
def Obligations.LiLoadsZeroExtended : Prop :=
  ∀ (rd : RegNum) (imm : BitVec 16) (s : State),
    encode (.li rd imm) = Spec.wordI 0x01 rd.val imm.toNat
      ∧ (s.status.err = false →
          exec (.li rd imm) s
            = Spec.answers (BitVec.ofNat 32 imm.toNat) (s.setReg rd (BitVec.ofNat 32 imm.toNat)))
      ∧ (s.status.err = true → exec (.li rd imm) s = Spec.refuses s)

/-- R262: `GET` responds with the register and changes nothing but `CC`, in every state. -/
def Obligations.GetReturnsRegister : Prop :=
  ∀ (rs1 : RegNum) (s : State),
    encode (.get rs1) = Spec.wordX 0x02 0 rs1.val 0 0
      ∧ exec (.get rs1) s = Spec.answers (s.reg rs1) s

/-- R263: `CSRR` of a number of the map reads that register into `x[rd]`; of any other number it raises
`IllegalCommand`. In every state. -/
def Obligations.CsrrReadsCsr : Prop :=
  ∀ (rd : RegNum) (csr : Sel) (s : State),
    encode (.csrr rd csr) = Spec.wordX 0x03 rd.val 0 0 csr.toNat
      ∧ ((∃ v, Spec.csrValue s csr.toNat = some v) ↔ Spec.IsCsrNumber csr.toNat)
      ∧ (∀ v, Spec.csrValue s csr.toNat = some v →
          exec (.csrr rd csr) s = Spec.answers v (s.setReg rd v))
      ∧ (¬ Spec.IsCsrNumber csr.toNat →
          exec (.csrr rd csr) s
            = Spec.raises s Spec.illegalCommand (encode (.csrr rd csr)) (encode (.csrr rd csr)))

/-- R264: `CSRW` of 0x002 writes bits 2:0 of the register to `CTRL` and responds with them; of any other
number it raises `IllegalCommand`. -/
def Obligations.CsrwWritesCtrl : Prop :=
  ∀ (csr : Sel) (rs1 : RegNum) (s : State),
    encode (.csrw csr rs1) = Spec.wordX 0x04 0 rs1.val 0 csr.toNat
      ∧ (s.status.err = false → csr.toNat = 0x002 →
          exec (.csrw csr rs1) s
            = Spec.answers (BitVec.ofNat 32 ((s.reg rs1).toNat % 8))
                { s with ctrl := BitVec.ofNat 3 (s.reg rs1).toNat })
      ∧ (s.status.err = false → csr.toNat ≠ 0x002 →
          exec (.csrw csr rs1) s
            = Spec.raises s Spec.illegalCommand (encode (.csrw csr rs1)) (encode (.csrw csr rs1)))
      ∧ (s.status.err = true → exec (.csrw csr rs1) s = Spec.refuses s)

/-- R265: `ECLR` clears `ERR` and the exception record, and nothing else, in every state. -/
def Obligations.EclrClearsException : Prop :=
  encode .eclr = 0x05000000#32
    ∧ ∀ s, exec .eclr s = Spec.answers 0#32
        { s with
          status := { s.status with err := false }
          record := { ecause := 0#8, einfo := 0#32, ecmd := 0#32, ecc := 0#32 } }

/-- R266: `LDT` loads the cell, zero-extended (`WS`: sign-extended), into `x[rd]`; it raises `IllegalCommand`
for a reserved space number and then `IndexRange` for an index at or above the size of the space. In every
state. -/
def Obligations.LdtLoadsCell : Prop :=
  ∀ (rd : RegNum) (space : Sel) (rs1 : RegNum) (s : State),
    encode (.ldt rd space rs1) = Spec.wordX 0x06 rd.val rs1.val 0 space.toNat
      ∧ (9 ≤ space.toNat →
          exec (.ldt rd space rs1) s
            = Spec.raises s Spec.illegalCommand (encode (.ldt rd space rs1)) (encode (.ldt rd space rs1)))
      ∧ (space.toNat < 9 → ∃ n, Spec.spaceSize space.toNat = some n
          ∧ (n ≤ (s.reg rs1).toNat →
              exec (.ldt rd space rs1) s
                = Spec.raises s Spec.indexRange (s.reg rs1) (encode (.ldt rd space rs1)))
          ∧ ((s.reg rs1).toNat < n → ∃ v, Spec.cellWord s space.toNat (s.reg rs1).toNat = some v
              ∧ exec (.ldt rd space rs1) s = Spec.answers v (s.setReg rd v)))

/-- R267: `STS` stores the byte to one cell of `SBOX` and clears `SBV`, `WSV`, `DRV`, `LCV` and all of
`RVALID_A`; it raises `IndexRange` for an index above 255 and then `ValidationError` for a value above 255. -/
def Obligations.StsStoresEntry : Prop :=
  ∀ (rs1 rs2 : RegNum) (s : State),
    encode (.sts rs1 rs2) = Spec.wordX 0x07 0 rs1.val rs2.val 0
      ∧ (s.status.err = false → 255 < (s.reg rs1).toNat →
          exec (.sts rs1 rs2) s = Spec.raises s Spec.indexRange (s.reg rs1) (encode (.sts rs1 rs2)))
      ∧ (s.status.err = false → (s.reg rs1).toNat ≤ 255 → 255 < (s.reg rs2).toNat →
          exec (.sts rs1 rs2) s = Spec.raises s Spec.validationError (s.reg rs2) (encode (.sts rs1 rs2)))
      ∧ (s.status.err = false → (s.reg rs1).toNat ≤ 255 → (s.reg rs2).toNat ≤ 255 →
          ∃ T : Cells Byte 256,
            (∀ x : Byte, cellAt T x
              = if x.toNat = (s.reg rs1).toNat then Spec.low8 (s.reg rs2) else cellAt s.sbox x)
            ∧ exec (.sts rs1 rs2) s = Spec.answers 0#32
                { s with
                  sbox := T
                  status := { s.status with sbv := false, wsv := false, drv := false, lcv := false }
                  bankA := { s.bankA with valid := Spec.noneValid } })
      ∧ (s.status.err = true → exec (.sts rs1 rs2) s = Spec.refuses s)

/-! ### Field Engine (40_field.md) -/

/-- R146: `GFADD` writes the XOR of the two low bytes; it needs no field tables. -/
def Obligations.GfaddXorsBytes : Prop :=
  ∀ (rd rs1 rs2 : RegNum) (s : State),
    let v := Spec.zext (Spec.low8 (s.reg rs1) ^^^ Spec.low8 (s.reg rs2))
    encode (.gfadd rd rs1 rs2) = Spec.wordX 0x10 rd.val rs1.val rs2.val 0
      ∧ (s.status.err = false → exec (.gfadd rd rs1 rs2) s = Spec.answers v (s.setReg rd v))
      ∧ (s.status.err = true → exec (.gfadd rd rs1 rs2) s = Spec.refuses s)

/-- R147: `GFMUL` writes the table product of the two low bytes; it raises `FieldNotReady` while `FTV = 0`. -/
def Obligations.GfmulMultipliesByTables : Prop :=
  ∀ (rd rs1 rs2 : RegNum) (s : State),
    let v := Spec.zext (Spec.tmul (cellAt s.exp) (cellAt s.log) (Spec.low8 (s.reg rs1))
      (Spec.low8 (s.reg rs2)))
    encode (.gfmul rd rs1 rs2) = Spec.wordX 0x11 rd.val rs1.val rs2.val 0
      ∧ (s.status.err = false → s.status.ftv = false →
          exec (.gfmul rd rs1 rs2) s
            = Spec.raises s Spec.fieldNotReady 0#32 (encode (.gfmul rd rs1 rs2)))
      ∧ (s.status.err = false → s.status.ftv = true →
          exec (.gfmul rd rs1 rs2) s = Spec.answers v (s.setReg rd v))
      ∧ (s.status.err = true → exec (.gfmul rd rs1 rs2) s = Spec.refuses s)

/-- R148: `GFINV` writes the table inverse of the low byte; it raises `FieldNotReady` while `FTV = 0`, then
`UndefinedInverse` for the byte 0. -/
def Obligations.GfinvInvertsOrRaises : Prop :=
  ∀ (rd rs1 : RegNum) (s : State),
    let a := Spec.low8 (s.reg rs1)
    let v := Spec.zext (Spec.tinv (cellAt s.exp) (cellAt s.log) a)
    encode (.gfinv rd rs1) = Spec.wordX 0x12 rd.val rs1.val 0 0
      ∧ (s.status.err = false → s.status.ftv = false →
          exec (.gfinv rd rs1) s = Spec.raises s Spec.fieldNotReady 0#32 (encode (.gfinv rd rs1)))
      ∧ (s.status.err = false → s.status.ftv = true → a = 0#8 →
          exec (.gfinv rd rs1) s = Spec.raises s Spec.undefinedInverse 0#32 (encode (.gfinv rd rs1)))
      ∧ (s.status.err = false → s.status.ftv = true → a ≠ 0#8 →
          exec (.gfinv rd rs1) s = Spec.answers v (s.setReg rd v))
      ∧ (s.status.err = true → exec (.gfinv rd rs1) s = Spec.refuses s)

/-- R149: `GFINVZ` writes the table inverse of the low byte, and 0 for the byte 0; it raises `FieldNotReady`
while `FTV = 0`. -/
def Obligations.GfinvzInvertsWithZero : Prop :=
  ∀ (rd rs1 : RegNum) (s : State),
    let v := Spec.zext (Spec.inv0 (cellAt s.exp) (cellAt s.log) (Spec.low8 (s.reg rs1)))
    encode (.gfinvz rd rs1) = Spec.wordX 0x13 rd.val rs1.val 0 0
      ∧ (s.status.err = false → s.status.ftv = false →
          exec (.gfinvz rd rs1) s = Spec.raises s Spec.fieldNotReady 0#32 (encode (.gfinvz rd rs1)))
      ∧ (s.status.err = false → s.status.ftv = true →
          exec (.gfinvz rd rs1) s = Spec.answers v (s.setReg rd v))
      ∧ (s.status.err = true → exec (.gfinvz rd rs1) s = Spec.refuses s)

/-- R145, with R142 and R143: `FBUILD` of a primitive element at most 255 writes its two tables, `GEN` and
`FTV`; of any other operand it raises `InvalidGenerator` with the whole register. -/
def Obligations.FbuildBuildsTables : Prop :=
  ∀ (rs1 : RegNum) (s : State),
    let g := Spec.low8 (s.reg rs1)
    encode (.fbuild rs1) = Spec.wordX 0x14 0 rs1.val 0 0
      ∧ (s.status.err = false → (s.reg rs1).toNat ≤ 255 → Spec.Primitive g →
          ∃ E L : Cells Byte 256, Spec.IsTables g (cellAt E) (cellAt L)
            ∧ exec (.fbuild rs1) s = Spec.answers 0#32
                { s with exp := E, log := L, gen := g, status := { s.status with ftv := true } })
      ∧ (s.status.err = false → ¬ ((s.reg rs1).toNat ≤ 255 ∧ Spec.Primitive g) →
          exec (.fbuild rs1) s
            = Spec.raises s Spec.invalidGenerator (s.reg rs1) (encode (.fbuild rs1)))
      ∧ (s.status.err = true → exec (.fbuild rs1) s = Spec.refuses s)

/-! ### S-box Builder (41_sbox.md) -/

/-- R163: `MROW` writes one matrix row; it raises `ValidationError` for a row number of 8 or more, then for a
value above 255. -/
def Obligations.MrowWritesRow : Prop :=
  ∀ (row : Sel) (rs1 : RegNum) (s : State),
    encode (.mrow row rs1) = Spec.wordX 0x20 0 rs1.val 0 row.toNat
      ∧ (s.status.err = false → 8 ≤ row.toNat →
          exec (.mrow row rs1) s
            = Spec.raises s Spec.validationError (BitVec.ofNat 32 row.toNat) (encode (.mrow row rs1)))
      ∧ (s.status.err = false → row.toNat < 8 → 255 < (s.reg rs1).toNat →
          exec (.mrow row rs1) s
            = Spec.raises s Spec.validationError (s.reg rs1) (encode (.mrow row rs1)))
      ∧ (s.status.err = false → row.toNat < 8 → (s.reg rs1).toNat ≤ 255 →
          ∃ M : Cells Byte 8,
            (∀ i : Fin 8, M.get i = if i.val = row.toNat then Spec.low8 (s.reg rs1) else s.mat.get i)
            ∧ exec (.mrow row rs1) s = Spec.answers 0#32 { s with mat := M })
      ∧ (s.status.err = true → exec (.mrow row rs1) s = Spec.refuses s)

/-- R164: `MCONST` writes the constant; it raises `ValidationError` for a value above 255. -/
def Obligations.MconstWritesConstant : Prop :=
  ∀ (rs1 : RegNum) (s : State),
    encode (.mconst rs1) = Spec.wordX 0x21 0 rs1.val 0 0
      ∧ (s.status.err = false → 255 < (s.reg rs1).toNat →
          exec (.mconst rs1) s
            = Spec.raises s Spec.validationError (s.reg rs1) (encode (.mconst rs1)))
      ∧ (s.status.err = false → (s.reg rs1).toNat ≤ 255 →
          exec (.mconst rs1) s = Spec.answers 0#32 { s with const := Spec.low8 (s.reg rs1) })
      ∧ (s.status.err = true → exec (.mconst rs1) s = Spec.refuses s)

/-- R162, with R161 and R46: `MATV` writes the matrix-vector product of the low byte under the two order bits
of `CTRL`. -/
def Obligations.MatvMultiplies : Prop :=
  ∀ (rd rs1 : RegNum) (s : State),
    encode (.matv rd rs1) = Spec.wordX 0x22 rd.val rs1.val 0 0
      ∧ (s.status.err = false →
          ∃ y : Byte, Spec.IsMatv s.mat s.ctrl (Spec.low8 (s.reg rs1)) y
            ∧ exec (.matv rd rs1) s = Spec.answers (Spec.zext y) (s.setReg rd (Spec.zext y)))
      ∧ (s.status.err = true → exec (.matv rd rs1) s = Spec.refuses s)

/-- R165: `AFF` writes the matrix-vector product of the low byte, XORed with `CONST`. -/
def Obligations.AffTransforms : Prop :=
  ∀ (rd rs1 : RegNum) (s : State),
    encode (.aff rd rs1) = Spec.wordX 0x23 rd.val rs1.val 0 0
      ∧ (s.status.err = false →
          ∃ y : Byte, Spec.IsMatv s.mat s.ctrl (Spec.low8 (s.reg rs1)) (y ^^^ s.const)
            ∧ exec (.aff rd rs1) s = Spec.answers (Spec.zext y) (s.setReg rd (Spec.zext y)))
      ∧ (s.status.err = true → exec (.aff rd rs1) s = Spec.refuses s)

/-- R166, with R160 and R168: `SBUILD` builds the table of `sbx`; if it is a permutation it is written, `SBV`
is set and the valid bits of everything derived are cleared; if not, `NonBijectiveResult` is raised with
`dupinfo`. With `FTV = 0` it raises `FieldNotReady`. -/
def Obligations.SbuildBuildsOrRaises : Prop :=
  encode .sbuild = 0x24000000#32
    ∧ ∀ s : State,
      (s.status.err = false → s.status.ftv = false →
          exec .sbuild s = Spec.raises s Spec.fieldNotReady 0#32 0x24000000#32)
      ∧ (∃ T : Cells Byte 256, (∀ x, Spec.IsSbx s x (cellAt T x))
          ∧ (s.status.err = false → s.status.ftv = true → Spec.Permutation (cellAt T) →
              exec .sbuild s = Spec.answers 0#32
                { s with
                  sbox := T
                  status := { s.status with sbv := true, wsv := false, drv := false, lcv := false }
                  bankA := { s.bankA with valid := Spec.noneValid } })
          ∧ (s.status.err = false → s.status.ftv = true → ¬ Spec.Permutation (cellAt T) →
              ∃ info, Spec.IsDupinfo (cellAt T) info
                ∧ exec .sbuild s = Spec.raises s Spec.nonBijectiveResult info 0x24000000#32))
      ∧ (s.status.err = true → exec .sbuild s = Spec.refuses s)

/-- R167, with R168: `SBCHK` sets `SBV` if `SBOX` is a permutation, and raises `NonBijectiveResult` with
`dupinfo` if it is not. -/
def Obligations.SbchkChecksTable : Prop :=
  encode .sbchk = 0x25000000#32
    ∧ ∀ s : State,
      (s.status.err = false → Spec.Permutation (cellAt s.sbox) →
          exec .sbchk s = Spec.answers 0#32 { s with status := { s.status with sbv := true } })
      ∧ (s.status.err = false → ¬ Spec.Permutation (cellAt s.sbox) →
          ∃ info, Spec.IsDupinfo (cellAt s.sbox) info
            ∧ exec .sbchk s = Spec.raises s Spec.nonBijectiveResult info 0x25000000#32)
      ∧ (s.status.err = true → exec .sbchk s = Spec.refuses s)

/-! ### Spectral Analyzer (42_spectral.md) -/

/-- R182, with R180 and R181: `WHT` fills `WS` with the spectrum of the selector, writes `WSTAG`, `WSV` and
the nonlinearity. -/
def Obligations.WhtComputesSpectrum : Prop :=
  ∀ (rd rs1 : RegNum) (s : State),
    let b := Spec.low8 (s.reg rs1)
    let v := BitVec.ofNat 32 (Spec.nl (cellAt s.sbox) b)
    encode (.wht rd rs1) = Spec.wordX 0x30 rd.val rs1.val 0 0
      ∧ (s.status.err = false → s.status.sbv = false →
          exec (.wht rd rs1) s = Spec.raises s Spec.sboxNotValid 0#32 (encode (.wht rd rs1)))
      ∧ (s.status.err = false → s.status.sbv = true →
          ∃ W : Cells Int 256, (∀ a, cellAt W a = Spec.walsh (cellAt s.sbox) b a)
            ∧ exec (.wht rd rs1) s = Spec.answers v (State.setReg
                { s with ws := W, wstag := b, status := { s.status with wsv := true } } rd v))
      ∧ (s.status.err = true → exec (.wht rd rs1) s = Spec.refuses s)

/-- R183: `NLSET` writes the least, the greatest and the sum of the 255 nonlinearities. -/
def Obligations.NlsetReportsNonlinearity : Prop :=
  encode .nlset = 0x31000000#32
    ∧ ∀ s : State,
      (s.status.err = false → s.status.sbv = false →
          exec .nlset s = Spec.raises s Spec.sboxNotValid 0#32 0x31000000#32)
      ∧ (s.status.err = false → s.status.sbv = true →
          ∃ mn mx sm : Word,
            Spec.IsMin Spec.nonzero (Spec.nl (cellAt s.sbox)) mn.toNat
            ∧ Spec.IsMax Spec.nonzero (Spec.nl (cellAt s.sbox)) mx.toNat
            ∧ sm.toNat = ∑ b ∈ Spec.nonzero, Spec.nl (cellAt s.sbox) b
            ∧ exec .nlset s = Spec.answers mn
                { s with bankA := { s.bankA with
                    nlMin := mn, nlMax := mx, nlSum := sm
                    valid := { s.bankA.valid with nl := true } } })
      ∧ (s.status.err = true → exec .nlset s = Spec.refuses s)

/-- R184: `BICNL` writes the least, the greatest and the sum of the nonlinearities of the 28 pairs of output
bits. -/
def Obligations.BicnlReportsPairs : Prop :=
  encode .bicnl = 0x32000000#32
    ∧ ∀ s : State,
      (s.status.err = false → s.status.sbv = false →
          exec .bicnl s = Spec.raises s Spec.sboxNotValid 0#32 0x32000000#32)
      ∧ (s.status.err = false → s.status.sbv = true →
          ∃ mn mx sm : Word,
            Spec.IsMin Spec.pairs (fun p => Spec.nl (cellAt s.sbox) (Spec.selector p)) mn.toNat
            ∧ Spec.IsMax Spec.pairs (fun p => Spec.nl (cellAt s.sbox) (Spec.selector p)) mx.toNat
            ∧ sm.toNat = ∑ p ∈ Spec.pairs, Spec.nl (cellAt s.sbox) (Spec.selector p)
            ∧ exec .bicnl s = Spec.answers mn
                { s with bankA := { s.bankA with
                    bnMin := mn, bnMax := mx, bnSum := sm
                    valid := { s.bankA.valid with bn := true } } })
      ∧ (s.status.err = true → exec .bicnl s = Spec.refuses s)

/-! ### Avalanche Analyzer (43_avalanche.md) -/

/-- R202, with R200 and R201: `SAC` fills `SACM` with the SAC counts and writes their sum. -/
def Obligations.SacFillsMatrix : Prop :=
  encode .sac = 0x40000000#32
    ∧ ∀ s : State,
      (s.status.err = false → s.status.sbv = false →
          exec .sac s = Spec.raises s Spec.sboxNotValid 0#32 0x40000000#32)
      ∧ (s.status.err = false → s.status.sbv = true →
          ∃ (M : Cells Nat 64) (sm : Word),
            (∀ j i : Fin 8, M.get? (j.val * 8 + i.val) = some (Spec.sac (cellAt s.sbox) j i))
            ∧ sm.toNat = ∑ j, ∑ i, Spec.sac (cellAt s.sbox) j i
            ∧ exec .sac s = Spec.answers sm
                { s with
                  sacm := M
                  bankA := { s.bankA with sacSum := sm, valid := { s.bankA.valid with sac := true } } })
      ∧ (s.status.err = true → exec .sac s = Spec.refuses s)

/-- R204, with R203: `BICSAC` fills `BSM` with the pair sums and writes their least, greatest, sum and the
deviation of the sum from the baseline that `CTRL.BICBASE` selects, which it records in `BSBASE`. -/
def Obligations.BicsacFillsMatrix : Prop :=
  encode .bicsac = 0x41000000#32
    ∧ ∀ s : State,
      (s.status.err = false → s.status.sbv = false →
          exec .bicsac s = Spec.raises s Spec.sboxNotValid 0#32 0x41000000#32)
      ∧ (s.status.err = false → s.status.sbv = true →
          ∃ (M : Cells Nat 64) (mn mx sm dv : Word),
            (∀ i k : Fin 8, M.get? (i.val * 8 + k.val) = some (Spec.bsum (cellAt s.sbox) i k))
            ∧ Spec.IsMin Spec.pairs (fun p => Spec.bsum (cellAt s.sbox) p.1 p.2) mn.toNat
            ∧ Spec.IsMax Spec.pairs (fun p => Spec.bsum (cellAt s.sbox) p.1 p.2) mx.toNat
            ∧ sm.toNat = Spec.bsTotal (cellAt s.sbox)
            ∧ dv.toNat = Spec.bsDev (cellAt s.sbox) (s.ctrl.getLsbD 2)
            ∧ exec .bicsac s = Spec.answers dv
                { s with
                  bsm := M
                  bankA := { s.bankA with
                    bsMin := mn, bsMax := mx, bsSum := sm, bsDev := dv
                    valid := { s.bankA.valid with bs := true, bsBase := s.ctrl.getLsbD 2 } } })
      ∧ (s.status.err = true → exec .bicsac s = Spec.refuses s)

/-! ### Approximation Analyzer (44_approximation.md) -/

/-- R217, with R216: `DDTR` fills `DR` with the DDT row of the difference, writes `DRTAG`, `DRV` and the
greatest count of the row. -/
def Obligations.DdtrComputesRow : Prop :=
  ∀ (rd rs1 : RegNum) (s : State),
    let dx := Spec.low8 (s.reg rs1)
    encode (.ddtr rd rs1) = Spec.wordX 0x50 rd.val rs1.val 0 0
      ∧ (s.status.err = false → s.status.sbv = false →
          exec (.ddtr rd rs1) s = Spec.raises s Spec.sboxNotValid 0#32 (encode (.ddtr rd rs1)))
      ∧ (s.status.err = false → s.status.sbv = true →
          ∃ (D : Cells Nat 256) (v : Word),
            (∀ dy, cellAt D dy = Spec.ddt (cellAt s.sbox) dx dy)
            ∧ Spec.IsMax Finset.univ (Spec.ddt (cellAt s.sbox) dx) v.toNat
            ∧ exec (.ddtr rd rs1) s = Spec.answers v (State.setReg
                { s with dr := D, drtag := dx, status := { s.status with drv := true } } rd v))
      ∧ (s.status.err = true → exec (.ddtr rd rs1) s = Spec.refuses s)

/-- R218: `DAP` writes the greatest DDT count over the non-zero input differences. -/
def Obligations.DapReportsMaximum : Prop :=
  encode .dap = 0x51000000#32
    ∧ ∀ s : State,
      (s.status.err = false → s.status.sbv = false →
          exec .dap s = Spec.raises s Spec.sboxNotValid 0#32 0x51000000#32)
      ∧ (s.status.err = false → s.status.sbv = true →
          ∃ v : Word,
            Spec.IsMax (Spec.nonzero ×ˢ Finset.univ) (fun p => Spec.ddt (cellAt s.sbox) p.1 p.2) v.toNat
            ∧ exec .dap s = Spec.answers v
                { s with bankA := { s.bankA with dapMax := v, valid := { s.bankA.valid with dap := true } } })
      ∧ (s.status.err = true → exec .dap s = Spec.refuses s)

/-- R220, with R219: `LATC` fills `LC` with the LAT column of the mask (input mask 0 included), writes `LCTAG`,
`LCV` and the greatest bias over the non-zero input masks. -/
def Obligations.LatcComputesColumn : Prop :=
  ∀ (rd rs1 : RegNum) (s : State),
    let b := Spec.low8 (s.reg rs1)
    encode (.latc rd rs1) = Spec.wordX 0x52 rd.val rs1.val 0 0
      ∧ (s.status.err = false → s.status.sbv = false →
          exec (.latc rd rs1) s = Spec.raises s Spec.sboxNotValid 0#32 (encode (.latc rd rs1)))
      ∧ (s.status.err = false → s.status.sbv = true →
          ∃ (C : Cells Nat 256) (v : Word),
            (∀ a, cellAt C a = Spec.lat (cellAt s.sbox) a b)
            ∧ Spec.IsMax Spec.nonzero (fun a => Spec.bias (cellAt s.sbox) a b) v.toNat
            ∧ exec (.latc rd rs1) s = Spec.answers v (State.setReg
                { s with lc := C, lctag := b, status := { s.status with lcv := true } } rd v))
      ∧ (s.status.err = true → exec (.latc rd rs1) s = Spec.refuses s)

/-- R221: `LAP` writes the greatest LAT bias over the non-zero masks. -/
def Obligations.LapReportsMaximum : Prop :=
  encode .lap = 0x53000000#32
    ∧ ∀ s : State,
      (s.status.err = false → s.status.sbv = false →
          exec .lap s = Spec.raises s Spec.sboxNotValid 0#32 0x53000000#32)
      ∧ (s.status.err = false → s.status.sbv = true →
          ∃ v : Word,
            Spec.IsMax (Spec.nonzero ×ˢ Spec.nonzero) (fun p => Spec.bias (cellAt s.sbox) p.1 p.2) v.toNat
            ∧ exec .lap s = Spec.answers v
                { s with bankA := { s.bankA with lapMax := v, valid := { s.bankA.valid with lap := true } } })
      ∧ (s.status.err = true → exec .lap s = Spec.refuses s)

/-! ### Metrics Aggregator (45_aggregate.md) -/

/-- R243: `ANALYZE` makes bank A, `SACM` and `BSM` the whole report of the S-box, sets all six valid bits and
`BSBASE`, and responds with `RVALID_A`: 0x3F, or 0x13F with `BICBASE = 1`. -/
def Obligations.AnalyzeComputesReport : Prop :=
  encode .analyze = 0x60000000#32
    ∧ ∀ s : State,
      (s.status.err = false → s.status.sbv = false →
          exec .analyze s = Spec.raises s Spec.sboxNotValid 0#32 0x60000000#32)
      ∧ (s.status.err = false → s.status.sbv = true →
          ∃ (r : Report) (A B : Cells Nat 64),
            r.valid = Spec.allValid (s.ctrl.getLsbD 2)
            ∧ Spec.IsNlReport (cellAt s.sbox) r ∧ Spec.IsBnReport (cellAt s.sbox) r
            ∧ Spec.IsSacReport (cellAt s.sbox) A r ∧ Spec.IsBsReport (cellAt s.sbox) B r
            ∧ Spec.IsLapReport (cellAt s.sbox) r ∧ Spec.IsDapReport (cellAt s.sbox) r
            ∧ exec .analyze s
              = Spec.answers (if s.ctrl.getLsbD 2 then 0x13F#32 else 0x3F#32)
                  { s with bankA := r, sacm := A, bsm := B })
      ∧ (s.status.err = true → exec .analyze s = Spec.refuses s)

/-- R244: `SNAP` copies bank A, valid bits included, into bank B and responds with `RVALID_A`. -/
def Obligations.SnapCopiesBank : Prop :=
  encode .snap = 0x61000000#32
    ∧ ∀ s : State,
      (s.status.err = false →
          exec .snap s = Spec.answers (Spec.rvalidWord s.bankA.valid) { s with bankB := s.bankA })
      ∧ (s.status.err = true → exec .snap s = Spec.refuses s)

/-- R245: `CMP` of a comparable metric whose valid bit is set in both banks (and, for `BS_DEV`, taken against
the same baseline) writes the winner, both values and their difference; it raises `IllegalCommand` for any
other metric number, then `ReportNotValid`. -/
def Obligations.CmpComparesMetric : Prop :=
  ∀ (rd : RegNum) (metric : Sel) (s : State),
    encode (.cmp rd metric) = Spec.wordX 0x62 rd.val 0 0 metric.toNat
      ∧ ((∃ q, Spec.metric metric.toNat = some q) ↔ Spec.IsMetricNumber metric.toNat)
      ∧ (s.status.err = false → Spec.metric metric.toNat = none →
          exec (.cmp rd metric) s
            = Spec.raises s Spec.illegalCommand (encode (.cmp rd metric)) (encode (.cmp rd metric)))
      ∧ (∀ value valid, Spec.metric metric.toNat = some (value, valid) →
          let ready := valid s.bankA.valid = true ∧ valid s.bankB.valid = true
            ∧ (metric.toNat = 11 → s.bankA.valid.bsBase = s.bankB.valid.bsBase)
          let a := value s.bankA
          let b := value s.bankB
          let win := Spec.win (Spec.key metric.toNat a) (Spec.key metric.toNat b)
          (s.status.err = false → ¬ ready →
              exec (.cmp rd metric) s
                = Spec.raises s Spec.reportNotValid (BitVec.ofNat 32 metric.toNat)
                    (encode (.cmp rd metric)))
          ∧ (s.status.err = false → ready →
              exec (.cmp rd metric) s = Spec.answers (BitVec.ofNat 32 win) (State.setReg
                { s with cmp :=
                    { win := BitVec.ofNat 2 win
                      a := a
                      b := b
                      delta := BitVec.ofInt 32 ((a.toNat : Int) - (b.toNat : Int)) } }
                rd (BitVec.ofNat 32 win))))
      ∧ (s.status.err = true → exec (.cmp rd metric) s = Spec.refuses s)

/-! ### The machine (60_exceptions.md, 70_reset_and_hazards.md, 30_encoding.md) -/

/-- A step runs the decoded command (R292). The command word leaves the host's input (the model's own field,
log 1); the rest of the step is `exec`. -/
def Obligations.StepRunsDecodedCommand : Prop :=
  ∀ (s : State) (w : Word) (rest : List HostInput) (i : Instr),
    s.input = .command w :: rest → decode w = .ok i → step s = exec i { s with input := rest }

/-- R296 (and the exception case of R292): when a word raises in a state with none latched, every write is
discarded, `ERR`, the cause, the info, the word and its number are latched, `CC` advances and the response is
the code and the info; nothing else changes. -/
def Obligations.ExceptionIsLatched : Prop :=
  ∀ (s : State) (w : Word) (rest : List HostInput),
    s.input = .command w :: rest → s.status.err = false →
    ∃ (t : State) (r : Response), step s = .next t ∧ t.responses = s.responses ++ [r]
      ∧ (r.status = 0#8
        ∨ (1#8 ≤ r.status ∧ r.status ≤ 9#8
            ∧ t = { s with
                input := rest
                status := { s.status with err := true }
                record := { ecause := r.status, einfo := r.data, ecmd := w, ecc := s.cc }
                cc := s.cc + 1#32
                responses := s.responses ++ [r] }))

/-- R298 and R299: in the blocked state a word outside the five allowed op bytes is refused with (10, 0) and
changes nothing but `CC`. An allowed one runs; if it raises, its code and info are the response, nothing is
latched and nothing is written; if not, it is a command that writes no general register but its destination and
nothing else but `CC`, or is `ECLR`, which ends the blocked state. -/
def Obligations.BlockedStateRefuses : Prop :=
  ∀ (s : State) (w : Word) (rest : List HostInput),
    s.input = .command w :: rest → s.status.err = true →
    (¬ Spec.RunsBlocked w → step s = Spec.refuses { s with input := rest })
    ∧ (Spec.RunsBlocked w →
        ∃ (t : State) (r : Response), step s = .next t ∧ t.responses = s.responses ++ [r]
          ∧ r.status ≤ 9#8
          ∧ (1#8 ≤ r.status →
              t = { s with input := rest, cc := s.cc + 1#32, responses := s.responses ++ [r] })
          ∧ (r.status = 0#8 → Spec.op w ≠ 0x05 →
              t = { s with
                input := rest, x := t.x, cc := s.cc + 1#32, responses := s.responses ++ [r] }
              ∧ ∃ i, decode w = .ok i ∧ ∀ q, Spec.dest i ≠ some q → t.reg q = s.reg q)
          ∧ (r.status = 0#8 → Spec.op w = 0x05 → t.status.err = false))

/-- R117: outside the blocked state a word is answered with `IllegalCommand` exactly when it is illegal: its op
byte is unknown, or a field it does not use is not zero, or its `sel` is not one its command accepts. -/
def Obligations.IllegalWordsRaise : Prop :=
  ∀ (s : State) (w : Word) (rest : List HostInput),
    s.input = .command w :: rest → s.status.err = false →
    ∃ (t : State) (r : Response), step s = .next t ∧ t.responses = s.responses ++ [r]
      ∧ (r.status = Spec.illegalCommand ↔ Spec.IsIllegal w)
      ∧ (Spec.IsIllegal w → r.data = w)

/-- R17, R40, R293: a run of any list of command words ends, the words are all taken, there is one response per
word, and `CC` counts the words modulo 2^32. The words are executed in order: the step from the state that `k` steps
reach is the execution of word `k`, and the one response it gives is response `k`. The list of words is the model's
host input (log 1). -/
def Obligations.RunAnswersEveryWord : Prop :=
  ∀ (ws : List Word) (s : State), s.input = ws.map HostInput.command →
    ∃ (t : State) (rs : List Response), Host.Core.run Sys2Proof.core ws.length s = .next t
      ∧ t.input = [] ∧ rs.length = ws.length ∧ t.responses = s.responses ++ rs
      ∧ t.cc = BitVec.ofNat 32 (s.cc.toNat + ws.length)
      ∧ ∀ (k : Nat) (w : Word), ws[k]? = some w →
          ∃ (u v : State) (r : Response), Host.Core.run Sys2Proof.core k s = .next u
            ∧ u.input = .command w :: (ws.drop (k + 1)).map HostInput.command
            ∧ u.responses = s.responses ++ rs.take k
            ∧ step u = runWord w { u with input := (ws.drop (k + 1)).map HostInput.command }
            ∧ step u = .next v ∧ v.responses = u.responses ++ [r] ∧ rs[k]? = some r

/-- R330: asserting reset replaces the whole state by the reset state. That the host's own input and the
responses it has had stay is the model's reading (log 3). -/
def Obligations.HostResetResets : Prop :=
  ∀ (s : State) (rest : List HostInput), s.input = .reset :: rest →
    step s = .next { State.reset with input := rest, responses := s.responses }

/-- R331: the reset state. Every piece of state is 0, and the all-zero table is no permutation. -/
def Obligations.ResetStateIsZero : Prop :=
  let s := State.reset
  (∀ r, s.reg r = 0#32) ∧ s.cc = 0#32
    ∧ Spec.statusWord s.status = 0#32 ∧ s.ctrl = 0#3
    ∧ s.record = { ecause := 0#8, einfo := 0#32, ecmd := 0#32, ecc := 0#32 }
    ∧ s.gen = 0#8 ∧ s.const = 0#8 ∧ (∀ i, s.mat.get i = 0#8)
    ∧ s.wstag = 0#8 ∧ s.drtag = 0#8 ∧ s.lctag = 0#8
    ∧ (∀ n, n < 14 → Spec.bankValue s.bankA n = some 0#32)
    ∧ (∀ n, n < 14 → Spec.bankValue s.bankB n = some 0#32)
    ∧ s.cmp = { win := 0#2, a := 0#32, b := 0#32, delta := 0#32 }
    ∧ (∀ i, cellAt s.exp i = 0#8) ∧ (∀ i, cellAt s.log i = 0#8) ∧ (∀ i, cellAt s.sbox i = 0#8)
    ∧ (∀ i, cellAt s.ws i = 0) ∧ (∀ i, cellAt s.dr i = 0) ∧ (∀ i, cellAt s.lc i = 0)
    ∧ (∀ i, s.sacm.get i = 0) ∧ (∀ i, s.bsm.get i = 0)
    ∧ Spec.csrValue s 0x000 = some 0x53420001#32
    ∧ ¬ Spec.Permutation (cellAt s.sbox)

/-! ### Encoding (30_encoding.md) -/

/-- Decoding the word of any command gives the command back, whatever its operands. -/
def Obligations.DecodeEncode : Prop := ∀ i : Instr, decode (encode i) = .ok i

/-- A word that decodes is the word of the command it decodes to: no other word has that meaning. -/
def Obligations.EncodeDecode : Prop := ∀ (w : Word) (i : Instr), decode w = .ok i → encode i = w

/-- R117: a command is well-formed exactly when its word is not illegal, that is, when its `sel` is one it
accepts. -/
def Obligations.WellFormedIsLegal : Prop := ∀ i : Instr, i.wellFormed = true ↔ ¬ Spec.IsIllegal (encode i)

/-- R115: a word is command `M` exactly when `(w AND mask) = match` for the row of `M`. -/
def Obligations.DecodeMatchesTable : Prop :=
  ∀ (w : Word) (m : String), (∃ i, decode w = .ok i ∧ i.mnemonic = m) ↔ Spec.Matches m w

/-- Words printed in 95_test_vectors.md section 9 decode to the commands they stand for. -/
def Obligations.PrintedWordsDecode : Prop :=
  decode 0x0130011B#32 = .ok (.li 3 0x11B#16)
    ∧ decode 0x03C0020D#32 = .ok (.csrr 12 0x20D#12)
    ∧ decode 0x06FE0008#32 = .ok (.ldt 15 0x008#12 14)
    ∧ decode 0x07012000#32 = .ok (.sts 1 2)
    ∧ decode 0x11312000#32 = .ok (.gfmul 3 1 2)
    ∧ decode 0x20010007#32 = .ok (.mrow 0x007#12 1)
    ∧ decode 0x30210000#32 = .ok (.wht 2 1)
    ∧ decode 0x40000000#32 = .ok .sac
    ∧ decode 0x52210000#32 = .ok (.latc 2 1)
    ∧ decode 0x6290000D#32 = .ok (.cmp 9 0x00D#12)

/-! ### What changes what (10_state.md, 20_memory.md) -/

/-- R31, R32: writing a general register changes that register and no other, none is hard-wired; and a
command changes no general register but its destination. -/
def Obligations.GeneralRegisterFrame : Prop :=
  (∀ (s : State) (r q : RegNum) (v : Word), (s.setReg r v).reg q = if q = r then v else s.reg q)
    ∧ ∀ (i : Instr) (s t : State) (q : RegNum),
        exec i s = .next t → Spec.dest i ≠ some q → t.reg q = s.reg q

/-- R82, R40, R46, R48 to R51, R53 to R55, R57: each table space, the parameter and tag registers, the report and
comparison registers and the exception record are changed only by the commands that the rules name as their writers;
the record also by latching an exception, which sets `ERR` and names this very command. `CC` only counts. (The flags
of `STATUS` and `RVALID_A` have a statement of their own, `OnlyNamedFlagChanges`.) -/
def Obligations.OnlyNamedWriters : Prop :=
  ∀ (i : Instr) (s t : State), exec i s = .next t →
    (t.exp ≠ s.exp → ∃ r, i = .fbuild r) ∧ (t.log ≠ s.log → ∃ r, i = .fbuild r)
    ∧ (t.gen ≠ s.gen → ∃ r, i = .fbuild r)
    ∧ (t.sbox ≠ s.sbox → i = .sbuild ∨ ∃ p q, i = .sts p q)
    ∧ (t.mat ≠ s.mat → ∃ n r, i = .mrow n r) ∧ (t.const ≠ s.const → ∃ r, i = .mconst r)
    ∧ (t.ctrl ≠ s.ctrl → ∃ n r, i = .csrw n r)
    ∧ t.cc = s.cc + 1#32
    ∧ (t.record ≠ s.record → i = .eclr
        ∨ (s.status.err = false ∧ t.status.err = true ∧ t.record.ecause ≠ 0#8 ∧ t.record.ecmd = encode i
            ∧ t.record.ecc = s.cc))
    ∧ (t.ws ≠ s.ws ∨ t.wstag ≠ s.wstag → ∃ p q, i = .wht p q)
    ∧ (t.dr ≠ s.dr ∨ t.drtag ≠ s.drtag → ∃ p q, i = .ddtr p q)
    ∧ (t.lc ≠ s.lc ∨ t.lctag ≠ s.lctag → ∃ p q, i = .latc p q)
    ∧ (t.sacm ≠ s.sacm → i = .sac ∨ i = .analyze) ∧ (t.bsm ≠ s.bsm → i = .bicsac ∨ i = .analyze)
    ∧ (t.bankB ≠ s.bankB → i = .snap) ∧ (t.cmp ≠ s.cmp → ∃ p q, i = .cmp p q)
    ∧ (t.bankA.nlMin ≠ s.bankA.nlMin ∨ t.bankA.nlMax ≠ s.bankA.nlMax ∨ t.bankA.nlSum ≠ s.bankA.nlSum →
        i = .nlset ∨ i = .analyze)
    ∧ (t.bankA.bnMin ≠ s.bankA.bnMin ∨ t.bankA.bnMax ≠ s.bankA.bnMax ∨ t.bankA.bnSum ≠ s.bankA.bnSum →
        i = .bicnl ∨ i = .analyze)
    ∧ (t.bankA.sacSum ≠ s.bankA.sacSum → i = .sac ∨ i = .analyze)
    ∧ (t.bankA.bsMin ≠ s.bankA.bsMin ∨ t.bankA.bsMax ≠ s.bankA.bsMax ∨ t.bankA.bsSum ≠ s.bankA.bsSum
        ∨ t.bankA.bsDev ≠ s.bankA.bsDev → i = .bicsac ∨ i = .analyze)
    ∧ (t.bankA.lapMax ≠ s.bankA.lapMax → i = .lap ∨ i = .analyze)
    ∧ (t.bankA.dapMax ≠ s.bankA.dapMax → i = .dap ∨ i = .analyze)

/-- R41: each flag is set and cleared only by the commands of its row in the table of flags. -/
def Obligations.OnlyNamedFlagChanges : Prop :=
  ∀ (i : Instr) (s t : State), exec i s = .next t →
    let changed := i = .sbuild ∨ ∃ p q, i = .sts p q
    Spec.Switches s.status.err t.status.err
        (t.record.ecause ≠ 0#8 ∧ t.record.ecmd = encode i ∧ t.record.ecc = s.cc) (i = .eclr)
    ∧ Spec.Switches s.status.ftv t.status.ftv (∃ r, i = .fbuild r) False
    ∧ Spec.Switches s.status.sbv t.status.sbv (i = .sbuild ∨ i = .sbchk) (∃ p q, i = .sts p q)
    ∧ Spec.Switches s.status.wsv t.status.wsv (∃ p q, i = .wht p q) changed
    ∧ Spec.Switches s.status.drv t.status.drv (∃ p q, i = .ddtr p q) changed
    ∧ Spec.Switches s.status.lcv t.status.lcv (∃ p q, i = .latc p q) changed
    ∧ Spec.Switches s.bankA.valid.nl t.bankA.valid.nl (i = .nlset ∨ i = .analyze) changed
    ∧ Spec.Switches s.bankA.valid.bn t.bankA.valid.bn (i = .bicnl ∨ i = .analyze) changed
    ∧ Spec.Switches s.bankA.valid.sac t.bankA.valid.sac (i = .sac ∨ i = .analyze) changed
    ∧ Spec.Switches s.bankA.valid.bs t.bankA.valid.bs (i = .bicsac ∨ i = .analyze) changed
    ∧ Spec.Switches s.bankA.valid.lap t.bankA.valid.lap (i = .lap ∨ i = .analyze) changed
    ∧ Spec.Switches s.bankA.valid.dap t.bankA.valid.dap (i = .dap ∨ i = .analyze) changed
    ∧ Spec.Switches s.bankA.valid.bsBase t.bankA.valid.bsBase (i = .bicsac ∨ i = .analyze)
        (changed ∨ i = .bicsac ∨ i = .analyze)

/-! ### Invariants (10_state.md R60) -/

/-- The spec's own inference (10_state.md section 9, R60, '[derived: from rules R41, R48 ...]'), with the ranges of
10_state.md sections 5 and 7: every step from a good state leads to a good state. -/
def Obligations.StepKeepsGoodState : Prop :=
  ∀ s t : State, s.Inv → step s = .next t → t.Inv

/-- The reset state is a good state. -/
def Obligations.ResetIsGoodState : Prop := State.reset.Inv

/-! ### Laws of the functions -/

/-- The spec's own inference (40_field.md section 1, the properties of `pmul`): `pmul` is commutative, associative, distributes over XOR, has 0 and 1, and no zero divisors. -/
def Obligations.PmulIsFieldProduct : Prop :=
  (∀ a b, pmul a b = pmul b a) ∧ (∀ a b c, pmul (pmul a b) c = pmul a (pmul b c))
    ∧ (∀ a b c, pmul a (b ^^^ c) = pmul a b ^^^ pmul a c)
    ∧ (∀ a, pmul a 0#8 = 0#8) ∧ (∀ a, pmul a 1#8 = a)
    ∧ (∀ a b, a ≠ 0#8 → b ≠ 0#8 → pmul a b ≠ 0#8)
    ∧ pmul 0x02#8 0x80#8 = 0x1B#8 ∧ pmul 0x03#8 0x03#8 = 0x05#8
    ∧ pmul 0x57#8 0x83#8 = 0xC1#8 ∧ pmul 0x53#8 0xCA#8 = 0x01#8

/-- The spec's own inference (40_field.md section 3, R150, '[derived: from rules R141 to R144]'): the laws of the
Field Engine, for every state with valid field tables. -/
def Obligations.FieldEngineLaws : Prop :=
  ∀ s : State, FieldInv s → s.status.ftv = true →
    (∀ a b, tmul s.exp s.log a b = pmul a b)
    ∧ (∀ a, a ≠ 0#8 → tmul s.exp s.log a (tinv s.exp s.log a) = 1#8)
    ∧ (∀ a, a ≠ 0#8 → tinv s.exp s.log (tinv s.exp s.log a) = a)
    ∧ tinv s.exp s.log 1#8 = 1#8
    ∧ (∀ i, i < 255 → cellAt s.log (cellAt s.exp (BitVec.ofNat 8 i)) = BitVec.ofNat 8 i)
    ∧ (∀ v, v ≠ 0#8 → cellAt s.exp (cellAt s.log v) = v)
    ∧ (∀ i j, i < 255 → j < 255 →
        cellAt s.exp (BitVec.ofNat 8 i) = cellAt s.exp (BitVec.ofNat 8 j) → i = j)
    ∧ cellAt s.exp 255#8 = cellAt s.exp 0#8
    ∧ (∀ (rd rs1 rs2 : RegNum) (t : State), s.status.err = false →
        exec (.gfadd rd rs1 rs2) s = .next t →
        t.reg rd = Spec.zext (Spec.low8 (s.reg rs1) ^^^ Spec.low8 (s.reg rs2)))
    ∧ (∀ a b : Byte, a ^^^ b = b ^^^ a) ∧ (∀ a b c : Byte, a ^^^ b ^^^ c = a ^^^ (b ^^^ c))
    ∧ (∀ a : Byte, a ^^^ a = 0#8) ∧ (∀ a : Byte, a ^^^ 0#8 = a)
    ∧ (∀ a b c, tmul s.exp s.log a (b ^^^ c) = tmul s.exp s.log a b ^^^ tmul s.exp s.log a c)

/-- The spec's own inference (40_field.md section 3, R151, '[derived: from rule R150]'): the table product, the inverse and the inverse with zero do not depend on which primitive element
the tables were built from; and `FBUILD` leaves the S-box, its flags, the buffers and the reports. -/
def Obligations.GeneratorIndependence : Prop :=
  (∀ (g h : Byte) (E L E' L' : Cells Byte 256), Spec.Primitive g → Spec.Primitive h →
      Spec.IsTables g (cellAt E) (cellAt L) → Spec.IsTables h (cellAt E') (cellAt L') →
      (∀ a b, tmul E L a b = tmul E' L' a b) ∧ (∀ a, a ≠ 0#8 → tinv E L a = tinv E' L' a)
        ∧ ∀ a, inv0 E L a = inv0 E' L' a)
    ∧ ∀ (r : RegNum) (s t : State), exec (.fbuild r) s = .next t →
        t.sbox = s.sbox ∧ t.status.sbv = s.status.sbv ∧ t.status.wsv = s.status.wsv
          ∧ t.status.drv = s.status.drv ∧ t.status.lcv = s.status.lcv
          ∧ t.ws = s.ws ∧ t.dr = s.dr ∧ t.lc = s.lc ∧ t.sacm = s.sacm ∧ t.bsm = s.bsm
          ∧ t.bankA = s.bankA ∧ t.bankB = s.bankB

/-- The spec's own inference (41_sbox.md section 3, R169, '[derived: from rules R160 and R161 ...]'): `matv` is the product of R161 and is linear under every convention; `sbx(0) = CONST`; with
valid tables `sbx` is a permutation exactly when `matv` is injective; the other conventions are rewritings of
the rows; and the built table does not depend on the generator. -/
def Obligations.SboxBuilderLaws : Prop :=
  (∀ (mat : Cells Byte 8) (ctrl : BitVec 3),
      (∀ v, Spec.IsMatv mat ctrl v (matv mat ctrl v))
      ∧ (∀ u v, matv mat ctrl (u ^^^ v) = matv mat ctrl u ^^^ matv mat ctrl v)
      ∧ matv mat ctrl 0#8 = 0#8)
    ∧ (∀ s : State, sbx s 0#8 = s.const)
    ∧ (∀ s : State, FieldInv s → s.status.ftv = true →
        (Spec.Permutation (sbx s) ↔ Function.Injective (matv s.mat s.ctrl)))
    ∧ (∀ (mat mat' : Cells Byte 8) (ctrl ctrl' : BitVec 3) (v : Byte),
        (∀ i, mat'.get i = (mat.get i).reverse) →
        ctrl'.getLsbD 0 = ctrl.getLsbD 0 → ctrl.getLsbD 1 = true → ctrl'.getLsbD 1 = false →
        matv mat ctrl v = matv mat' ctrl' v)
    ∧ (∀ (mat mat' : Cells Byte 8) (ctrl ctrl' : BitVec 3) (v : Byte),
        (∀ i, mat'.get i = mat.get i.rev) →
        ctrl'.getLsbD 1 = ctrl.getLsbD 1 → ctrl.getLsbD 0 = true → ctrl'.getLsbD 0 = false →
        matv mat ctrl v = matv mat' ctrl' v)
    ∧ (∀ s t : State, FieldInv s → FieldInv t → s.status.ftv = true → t.status.ftv = true →
        s.mat = t.mat → s.const = t.const → s.ctrl = t.ctrl → ∀ x, sbx s x = sbx t x)

/-- R168: the permutation check and what a failed check reports. -/
def Obligations.PermutationCheck : Prop :=
  ∀ T : Cells Byte 256,
    (isPermutation T = true ↔ Spec.Permutation (cellAt T))
    ∧ (¬ Spec.Permutation (cellAt T) →
        Spec.IsDupinfo (cellAt T) (dupinfo T)
        ∧ 1 ≤ Spec.dupcnt (cellAt T) ∧ Spec.dupcnt (cellAt T) ≤ 128
        ∧ (dupinfo T).toNat / 256 = Spec.dupcnt (cellAt T)
        ∧ Spec.IsDupval (cellAt T) (Spec.low8 (dupinfo T)))

/-- The spec's own inference (42_spectral.md section 3, R185, '[derived: from rules R180 and R181]'): the laws of
the Spectral Analyzer, for every table; Parseval's relation among them. -/
def Obligations.SpectralLaws : Prop :=
  (∀ (S : Cells Byte 256) (b : Byte),
      (∀ a, Even (walsh S b a) ∧ -256 ≤ walsh S b a ∧ walsh S b a ≤ 256)
      ∧ nl S b ≤ 128
      ∧ walsh S 0#8 0#8 = 256 ∧ (∀ a, a ≠ 0#8 → walsh S 0#8 a = 0) ∧ nl S 0#8 = 0
      ∧ (Spec.Permutation (cellAt S) → b ≠ 0#8 → walsh S b 0#8 = 0)
      ∧ ∑ a : Byte, walsh S b a ^ 2 = 65536
      ∧ 16 ≤ maxw S b ∧ nl S b ≤ 120
      ∧ ∀ a, walsh S b a = 2 * (lat S a b : Int) - 256)
    ∧ ∀ (rd rs1 : RegNum) (s t : State), s.status.err = false → s.status.sbv = true →
        exec (.wht rd rs1) s = .next t →
        (t.reg rd).toNat = 128 - (Finset.univ.sup fun a : Byte => (cellAt t.ws a).natAbs) / 2

/-- The spec's own inference (43_avalanche.md section 3, R205, '[derived: from rules R200 to R204]'): the laws of
the Avalanche Analyzer, for every table, and what its two commands leave alone. -/
def Obligations.AvalancheLaws : Prop :=
  (∀ (S : Cells Byte 256) (i k j : Fin 8),
      (Even (sacCount S j i) ∧ sacCount S j i ≤ 256)
      ∧ (Even (bicSum S i k) ∧ bicSum S i k ≤ 2048)
      ∧ bicSum S i k = bicSum S k i ∧ bicSum S i i = 0
      ∧ (i ≠ k → bicCount S i k j
          = (Finset.univ.filter fun x : Byte =>
              Spec.parity (Spec.selector (i, k) &&& Spec.dflip (cellAt S) j x) = true).card)
      ∧ Even ((bicCount S i k j : Int) - ((sacCount S j i : Int) + (sacCount S j k : Int)))
      ∧ bicCount S i k j ≤ sacCount S j i + sacCount S j k)
    ∧ ∀ (i : Instr) (s t : State), i = .sac ∨ i = .bicsac → exec i s = .next t →
        t.sbox = s.sbox ∧ t.ws = s.ws ∧ t.dr = s.dr ∧ t.lc = s.lc
          ∧ ∀ n, n ≠ 0 → (i = .sac → n ≠ 7) → (i = .bicsac → n ≠ 8 ∧ n ≠ 9 ∧ n ≠ 10 ∧ n ≠ 11) →
              Spec.bankValue t.bankA n = Spec.bankValue s.bankA n

/-- The DDT count of R216 and, as the spec's own inference (44_approximation.md section 2, '[derived: the four
properties, from the definition]'), its properties, for every table. -/
def Obligations.DdtLaws : Prop :=
  ∀ (S : Cells Byte 256) (dx dy : Byte),
    ddt S dx dy = Spec.ddt (cellAt S) dx dy
    ∧ ∑ d : Byte, ddt S dx d = 256
    ∧ (dx ≠ 0#8 → Even (ddt S dx dy))
    ∧ ddt S 0#8 0#8 = 256 ∧ (dy ≠ 0#8 → ddt S 0#8 dy = 0)
    ∧ (Spec.Permutation (cellAt S) → dx ≠ 0#8 → ddt S dx 0#8 = 0)

/-- The LAT count of R219 and, as the spec's own inference (44_approximation.md section 3, '[derived: the
identities, from the definition and 42_spectral.md rule R181]'), its relation to the Walsh value, for every
table. -/
def Obligations.LatLaws : Prop :=
  (∀ (S : Cells Byte 256) (a b : Byte),
      lat S a b = Spec.lat (cellAt S) a b
      ∧ 2 * (lat S a b : Int) = walsh S b a + 256
      ∧ lat S 0#8 0#8 = 256 ∧ (a ≠ 0#8 → lat S a 0#8 = 128)
      ∧ (Spec.Permutation (cellAt S) → b ≠ 0#8 → lat S 0#8 b = 128))
    ∧ ∃ (S : Cells Byte 256) (a b : Byte), ¬ Even (lat S a b)

/-- The spec's own inference (44_approximation.md section 4, R222, '[derived: from rules R216 to R221 ...]', the
corner cases of R184, R202 and R218, and 10_state.md sections 5 and 9): in a good state, what the valid parts of a report say about one another. -/
def Obligations.ReportRelations : Prop :=
  ∀ s : State, s.Inv →
    (s.bankA.valid.lap = true → s.bankA.valid.nl = true →
        s.bankA.lapMax.toNat + s.bankA.nlMin.toNat = 128)
    ∧ (s.bankA.valid.dap = true →
        2 ≤ s.bankA.dapMax.toNat ∧ s.bankA.dapMax.toNat ≤ 256 ∧ Even s.bankA.dapMax.toNat)
    ∧ (s.bankA.valid.nl = true → s.bankA.valid.bn = true →
        s.bankA.nlMin.toNat ≤ s.bankA.bnMin.toNat ∧ s.bankA.bnMax.toNat ≤ s.bankA.nlMax.toNat)
    ∧ (s.bankA.valid.sac = true → 2048 ≤ s.bankA.sacSum.toNat)
    ∧ (s.status.drv = true → ∑ dy : Byte, cellAt s.dr dy = 256)
    ∧ (s.status.wsv = true → s.status.lcv = true → s.wstag = s.lctag →
        ∀ a, 2 * ((cellAt s.lc a : Nat) : Int) = cellAt s.ws a + 256)

/-- The spec's own inference (45_aggregate.md section 3, R246 law 1, '[derived: from rules R243 to R245]'):
`ANALYZE` gives the state that `NLSET`, `BICNL`, `SAC`, `BICSAC`, `LAP`, `DAP` give in any order,
but for `CC` and the number of responses. -/
def Obligations.AnalyzeIsTheSixCommands : Prop :=
  ∀ (s t : State) (l : List Instr), s.status.err = false → s.status.sbv = true →
    l.Perm [.nlset, .bicnl, .sac, .bicsac, .lap, .dap] → exec .analyze s = .next t →
    ∃ u : State, Spec.runAll l s = .next u ∧ u.cc = s.cc + 6#32
      ∧ { u with cc := t.cc, responses := t.responses } = t

/-- The spec's own inference (45_aggregate.md section 3, R246 laws 2 and 3, '[derived: from rules R243 to R245]'):
after `ANALYZE` and `SNAP` every comparison finds the banks equal with delta 0; and
with the banks exchanged, the winner codes 1 and 2 exchange and the delta changes sign. -/
def Obligations.ComparisonLaws : Prop :=
  (∀ (s t u : State) (rd : RegNum) (m : Sel), s.status.err = false → s.status.sbv = true →
      exec .analyze s = .next t → exec .snap t = .next u → Spec.IsMetricNumber m.toNat →
      ∃ v, exec (.cmp rd m) u = .next v ∧ v.reg rd = 0#32 ∧ v.cmp.win = 0#2 ∧ v.cmp.delta = 0#32)
    ∧ ∀ (s t : State) (rd : RegNum) (m : Sel), s.status.err = false →
        exec (.cmp rd m) s = .next t → t.status.err = false →
        ∃ t', exec (.cmp rd m) { s with bankA := s.bankB, bankB := s.bankA } = .next t'
          ∧ (t.cmp.win = 0#2 → t'.cmp.win = 0#2) ∧ (t.cmp.win = 1#2 → t'.cmp.win = 2#2)
          ∧ (t.cmp.win = 2#2 → t'.cmp.win = 1#2) ∧ t'.cmp.delta = -t.cmp.delta

end Statements
end

