-- ==== Sys2Proof/Laws/Cells.lean ====
section
/-! SUPPORT. The laws of rows of cells (read after write, read of a filled row, equality cell by cell),
and of the finite ranges of bytes. -/

namespace Sys2Proof

theorem Cells.get_eq_getElem {α : Type} {n : Nat} (t : Cells α n) (i : Fin n) :
    t.get i = t.toList[i.val]'(by rw [t.size_eq]; exact i.isLt) := rfl

/-- Two rows with equal lists of cells are equal. -/
theorem Cells.eq_of_toList {α : Type} {n : Nat} {t u : Cells α n} (h : t.toList = u.toList) : t = u := by
  cases t; cases u; cases h; rfl

/-- Two rows with equal cells are equal. -/
theorem Cells.ext_get {α : Type} {n : Nat} {t u : Cells α n} (h : ∀ i, t.get i = u.get i) : t = u := by
  apply Cells.eq_of_toList
  apply List.ext_getElem
  · rw [t.size_eq, u.size_eq]
  · intro i h₁ _
    exact h ⟨i, by rw [← t.size_eq]; exact h₁⟩

@[simp] theorem Cells.get_set_same {α : Type} {n : Nat} (t : Cells α n) (i : Fin n) (v : α) :
    (t.set i v).get i = v := by
  simp [Cells.get, Cells.set]

theorem Cells.get_set_ne {α : Type} {n : Nat} (t : Cells α n) {i j : Fin n} (v : α) (h : j ≠ i) :
    (t.set i v).get j = t.get j := by
  have : i.val ≠ j.val := fun e => h (Fin.ext e.symm)
  simp [Cells.get, Cells.set, this]

/-- Read after write, at any two cells. -/
theorem Cells.get_set {α : Type} {n : Nat} (t : Cells α n) (i j : Fin n) (v : α) :
    (t.set i v).get j = if j = i then v else t.get j := by
  split
  · next h => rw [h, Cells.get_set_same]
  · next h => exact Cells.get_set_ne t v h

@[simp] theorem Cells.get_fill {α : Type} {n : Nat} (v : α) (i : Fin n) : (Cells.fill n v).get i = v := by
  simp [Cells.get, Cells.fill]

@[simp] theorem Cells.get_tabulate {α : Type} {n : Nat} (f : Nat → α) (i : Fin n) :
    (Cells.tabulate n f).get i = f i.val := by
  simp [Cells.get, Cells.tabulate]

theorem Cells.get?_of_lt {α : Type} {n : Nat} (t : Cells α n) {i : Nat} (h : i < n) :
    t.get? i = some (t.get ⟨i, h⟩) := by
  have : i < t.toList.length := by rw [t.size_eq]; exact h
  simp [Cells.get?, Cells.get, this]

@[simp] theorem Cells.get?_eq_none {α : Type} {n : Nat} (t : Cells α n) (i : Nat) :
    t.get? i = none ↔ n ≤ i := by
  simp [Cells.get?, t.size_eq]

namespace Machine

@[simp] theorem byteIndex_val (b : Byte) : (byteIndex b).val = b.toNat := rfl

theorem byteIndex_inj {a b : Byte} : byteIndex a = byteIndex b ↔ a = b := by
  constructor
  · intro h; exact BitVec.eq_of_toNat_eq (congrArg Fin.val h)
  · rintro rfl; rfl

@[simp] theorem cellAt_byteTable {α : Type} (f : Byte → α) (b : Byte) : cellAt (byteTable f) b = f b := by
  simp [cellAt, byteTable]

/-- Read after write, at any two byte indices. -/
theorem cellAt_set {α : Type} (t : Cells α 256) (a b : Byte) (v : α) :
    cellAt (t.set (byteIndex a) v) b = if b = a then v else cellAt t b := by
  simp [cellAt, Cells.get_set, byteIndex_inj]

/-- Two rows of 256 cells that agree at every byte are equal. -/
theorem cells_ext_byte {α : Type} {t u : Cells α 256} (h : ∀ b, cellAt t b = cellAt u b) : t = u := by
  apply Cells.ext_get
  intro i
  have e : byteIndex (BitVec.ofNat 8 i.val) = i := by
    apply Fin.ext; simp [byteIndex]
  have := h (BitVec.ofNat 8 i.val)
  rwa [cellAt, cellAt, e] at this

@[simp] theorem mem_bytes (b : Byte) : b ∈ bytes := by
  refine List.mem_map.mpr ⟨b.toNat, List.mem_range.mpr b.isLt, ?_⟩
  simp

@[simp] theorem mem_nonzeroBytes (b : Byte) : b ∈ nonzeroBytes ↔ b ≠ 0#8 := by
  constructor
  · intro h
    obtain ⟨n, hn, rfl⟩ := List.mem_map.mp h
    have := List.mem_range'_1.mp hn
    intro e
    have := congrArg BitVec.toNat e
    simp at this
    omega
  · intro h
    refine List.mem_map.mpr ⟨b.toNat, List.mem_range'_1.mpr ⟨?_, ?_⟩, by simp⟩
    · rcases Nat.eq_zero_or_pos b.toNat with e | e
      · exact absurd (BitVec.eq_of_toNat_eq e) h
      · exact e
    · have : b.toNat < 256 := b.isLt
      omega

@[simp] theorem length_bytes : bytes.length = 256 := by simp [bytes]

theorem nodup_bytes : bytes.Nodup := by
  refine List.Nodup.map_on ?_ (List.nodup_range)
  intro a ha b hb h
  have := congrArg BitVec.toNat h
  simp at this ha hb
  omega

theorem bytes_eq_cons : bytes = 0#8 :: nonzeroBytes := by
  rw [bytes, nonzeroBytes, List.range_eq_range', List.range'_succ, List.map_cons]

/-- The table a row of 256 cells is of its own cells. -/
theorem toList_eq_map_bytes {α : Type} (t : Cells α 256) : t.toList = bytes.map (cellAt t) := by
  have h : t = byteTable (cellAt t) := cells_ext_byte fun b => by simp
  conv => lhs; rw [h]
  simp [byteTable, Cells.tabulate, bytes, Function.comp_def]

/-- Every value of the list is at most its maximum. -/
theorem le_maxOf {l : List Nat} {v : Nat} (h : v ∈ l) : v ≤ maxOf l := by
  induction l with
  | nil => cases h
  | cons a l ih =>
    simp only [maxOf, List.foldr_cons]
    rcases List.mem_cons.mp h with rfl | h
    · exact le_max_left _ _
    · exact le_trans (ih h) (le_max_right _ _)

/-- The maximum is below every bound of the list's values. -/
theorem maxOf_le {l : List Nat} {m : Nat} (h : ∀ v ∈ l, v ≤ m) : maxOf l ≤ m := by
  induction l with
  | nil => exact Nat.zero_le m
  | cons a l ih =>
    simp only [maxOf, List.foldr_cons]
    exact max_le (h a (by simp)) (ih fun v hv => h v (by simp [hv]))

/-- The maximum of a non-empty list is one of its values. -/
theorem maxOf_mem {l : List Nat} (h : l ≠ []) : maxOf l ∈ l := by
  induction l with
  | nil => exact absurd rfl h
  | cons a l ih =>
    simp only [maxOf, List.foldr_cons]
    by_cases hl : l = []
    · subst hl; simp
    · rcases max_choice a (l.foldr max 0) with e | e
      · rw [e]; simp
      · rw [e]; exact List.mem_cons_of_mem _ (ih hl)

theorem minOf_cons (a : Nat) (l : List Nat) : minOf (a :: l) = l.foldr min a := rfl

/-- The minimum is at most every value of the list. -/
theorem minOf_le {l : List Nat} {v : Nat} (h : v ∈ l) : minOf l ≤ v := by
  cases l with
  | nil => cases h
  | cons a l =>
    rw [minOf_cons]
    have key : ∀ l : List Nat, l.foldr min a ≤ a ∧ ∀ u ∈ l, l.foldr min a ≤ u := by
      intro l
      induction l with
      | nil => simp
      | cons b l ih =>
        refine ⟨le_trans (min_le_right _ _) ih.1, ?_⟩
        intro u hu
        rcases List.mem_cons.mp hu with rfl | hu
        · exact min_le_left _ _
        · exact le_trans (min_le_right _ _) (ih.2 u hu)
    rcases List.mem_cons.mp h with rfl | h
    · exact (key l).1
    · exact (key l).2 v h

/-- The minimum of a non-empty list is one of its values. -/
theorem minOf_mem {l : List Nat} (h : l ≠ []) : minOf l ∈ l := by
  cases l with
  | nil => exact absurd rfl h
  | cons a l =>
    rw [minOf_cons]
    induction l with
    | nil => simp
    | cons b l ih =>
      simp only [List.foldr_cons]
      rcases min_choice b (l.foldr min a) with e | e
      · rw [e]; simp
      · rw [e]
        rcases List.mem_cons.mp (ih (by simp)) with h | h
        · rw [h]; simp
        · simp [h]

end Machine

end Sys2Proof
end

