-- ==== Sys2Proof/Laws/Ranges.lean ====
section
/-! SUPPORT. The lists of bytes and of bit pairs the machine goes through are the finite sets of the rules:
a sum, a count, a minimum or a maximum over the list is the one over the set. -/

namespace Sys2Proof.Machine

theorem toFinset_bytes : bytes.toFinset = Finset.univ := by
  ext b; simp

theorem toFinset_nonzeroBytes : nonzeroBytes.toFinset = Spec.nonzero := by
  ext b; simp [Spec.nonzero]

theorem nodup_nonzeroBytes : nonzeroBytes.Nodup := by
  have h := nodup_bytes
  rw [bytes_eq_cons] at h
  exact (List.nodup_cons.mp h).2

/-- A sum over the list of all bytes is the sum over all bytes. -/
theorem sum_map_bytes {M : Type} [AddCommMonoid M] (f : Byte → M) : (bytes.map f).sum = ∑ x, f x := by
  rw [← List.sum_toFinset f nodup_bytes, toFinset_bytes]

/-- A sum over the list of non-zero bytes is the sum over the set of them. -/
theorem sum_map_nonzeroBytes {M : Type} [AddCommMonoid M] (f : Byte → M) :
    (nonzeroBytes.map f).sum = ∑ x ∈ Spec.nonzero, f x := by
  rw [← List.sum_toFinset f nodup_nonzeroBytes, toFinset_nonzeroBytes]

/-- A count over the list of all bytes is the size of a set. -/
theorem countP_bytes (p : Byte → Bool) :
    bytes.countP p = (Finset.univ.filter fun x => p x = true).card := by
  rw [List.countP_eq_length_filter, ← toFinset_bytes, ← List.toFinset_filter,
    List.toFinset_card_of_nodup (nodup_bytes.filter p)]

/-- The machine's maximum over a list is the greatest value over the set the list goes through. -/
theorem isMax_maxOf {α : Type} {l : List α} {s : Finset α} (f : α → Nat) (h : ∀ a, a ∈ l ↔ a ∈ s)
    (hl : l ≠ []) : Spec.IsMax s f (maxOf (l.map f)) := by
  constructor
  · obtain ⟨a, ha, e⟩ := List.mem_map.mp (maxOf_mem (l := l.map f) (by simpa using hl))
    exact ⟨a, by simpa using (h a).mp ha, e⟩
  · rintro _ ⟨a, ha, rfl⟩
    exact le_maxOf (List.mem_map.mpr ⟨a, (h a).mpr (by simpa using ha), rfl⟩)

/-- The machine's minimum over a list is the least value over the set the list goes through. -/
theorem isMin_minOf {α : Type} {l : List α} {s : Finset α} (f : α → Nat) (h : ∀ a, a ∈ l ↔ a ∈ s)
    (hl : l ≠ []) : Spec.IsMin s f (minOf (l.map f)) := by
  constructor
  · obtain ⟨a, ha, e⟩ := List.mem_map.mp (minOf_mem (l := l.map f) (by simpa using hl))
    exact ⟨a, by simpa using (h a).mp ha, e⟩
  · rintro _ ⟨a, ha, rfl⟩
    exact minOf_le (List.mem_map.mpr ⟨a, (h a).mpr (by simpa using ha), rfl⟩)

theorem bytes_ne_nil : bytes ≠ [] := by
  rw [bytes_eq_cons]; exact List.cons_ne_nil _ _

theorem nonzeroBytes_ne_nil : nonzeroBytes ≠ [] :=
  List.ne_nil_of_mem ((mem_nonzeroBytes 1#8).mpr (by decide))

theorem mem_nonzeroBytes_iff (b : Byte) : b ∈ nonzeroBytes ↔ b ∈ Spec.nonzero := by
  rw [← toFinset_nonzeroBytes, List.mem_toFinset]

/-- The machine's maximum over all bytes as a supremum. -/
theorem maxOf_map_bytes (f : Byte → Nat) : maxOf (bytes.map f) = Finset.univ.sup f := by
  apply Nat.le_antisymm
  · apply maxOf_le
    intro v hv
    obtain ⟨a, -, rfl⟩ := List.mem_map.mp hv
    exact Finset.le_sup (Finset.mem_univ a)
  · exact Finset.sup_le fun a _ => le_maxOf (List.mem_map.mpr ⟨a, mem_bytes a, rfl⟩)

/-! ### The 28 pairs of output bits -/

/-- A pair of bit numbers as a pair of numbers. -/
def pairNumbers (p : Fin 8 × Fin 8) : Nat × Nat := (p.1.val, p.2.val)

theorem pairNumbers_injective : Function.Injective pairNumbers := by
  rintro ⟨a, b⟩ ⟨c, d⟩ h
  simp only [pairNumbers, Prod.mk.injEq] at h
  rw [Fin.ext h.1, Fin.ext h.2]

/-- The machine's pairs are the pairs of the rules, with their numbers. -/
theorem toFinset_bitPairs : bitPairs.toFinset = Spec.pairs.image pairNumbers := by decide

theorem nodup_bitPairs : bitPairs.Nodup := by decide

theorem bitPairs_ne_nil : bitPairs ≠ [] := by decide

/-- A sum over the list of pairs is the sum over the set of pairs. -/
theorem sum_map_bitPairs (f : Nat × Nat → Nat) :
    (bitPairs.map f).sum = ∑ p ∈ Spec.pairs, f (p.1.val, p.2.val) := by
  rw [← List.sum_toFinset f nodup_bitPairs, toFinset_bitPairs,
    Finset.sum_image fun a _ b _ h => pairNumbers_injective h]
  rfl

theorem mem_bitPairs (q : Nat × Nat) :
    q ∈ bitPairs ↔ ∃ p ∈ Spec.pairs, (p.1.val, p.2.val) = q := by
  rw [← List.mem_toFinset, toFinset_bitPairs, Finset.mem_image]
  rfl

/-- The greatest value over the pairs. -/
theorem isMax_bitPairs (f : Nat × Nat → Nat) :
    Spec.IsMax Spec.pairs (fun p => f (p.1.val, p.2.val)) (maxOf (bitPairs.map f)) := by
  constructor
  · obtain ⟨q, hq, e⟩ := List.mem_map.mp (maxOf_mem (l := bitPairs.map f) (by simp [bitPairs_ne_nil]))
    obtain ⟨p, hp, rfl⟩ := (mem_bitPairs q).mp hq
    exact ⟨p, by simpa using hp, e⟩
  · rintro _ ⟨p, hp, rfl⟩
    exact le_maxOf (List.mem_map.mpr ⟨_, (mem_bitPairs _).mpr ⟨p, by simpa using hp, rfl⟩, rfl⟩)

/-- The least value over the pairs. -/
theorem isMin_bitPairs (f : Nat × Nat → Nat) :
    Spec.IsMin Spec.pairs (fun p => f (p.1.val, p.2.val)) (minOf (bitPairs.map f)) := by
  constructor
  · obtain ⟨q, hq, e⟩ := List.mem_map.mp (minOf_mem (l := bitPairs.map f) (by simp [bitPairs_ne_nil]))
    obtain ⟨p, hp, rfl⟩ := (mem_bitPairs q).mp hq
    exact ⟨p, by simpa using hp, e⟩
  · rintro _ ⟨p, hp, rfl⟩
    exact minOf_le (List.mem_map.mpr ⟨_, (mem_bitPairs _).mpr ⟨p, by simpa using hp, rfl⟩, rfl⟩)

/-! ### Single bits -/

/-- The byte `2^i` of a bit number. -/
theorem bitByte_fin (i : Fin 8) : bitByte i.val = Spec.bit i := by
  fin_cases i <;> rfl

theorem pairSelector_fin (p : Fin 8 × Fin 8) : pairSelector (p.1.val, p.2.val) = Spec.selector p := by
  simp [pairSelector, Spec.selector, bitByte_fin]

theorem selector_ne_zero {p : Fin 8 × Fin 8} (h : p ∈ Spec.pairs) : Spec.selector p ≠ 0#8 := by
  revert p; decide

/-- The parity the machine sums up is the parity of the number of 1 bits. -/
theorem parity_eq (v : Byte) : parity v = Spec.parity v := by
  revert v; decide +kernel

theorem zext32_eq (v : Byte) : zext32 v = Spec.zext v := by
  apply BitVec.eq_of_toNat_eq
  simp [zext32, Spec.zext]

theorem setWidth8_eq_low8 (v : Word) : v.setWidth 8 = Spec.low8 v := by
  apply BitVec.eq_of_toNat_eq
  simp [Spec.low8]

end Sys2Proof.Machine
end

