-- ==== Sys2Proof/Laws/Analysis.lean ====
section
/-! SUPPORT. The functions the analyzers compute are the formulas of the rules (42_spectral.md,
43_avalanche.md, 44_approximation.md, 41_sbox.md R168). -/

namespace Sys2Proof.Machine

variable (t : Cells Byte 256)

/-! ### Permutation check (R168) -/

theorem mult_eq (v : Byte) : mult t v = Spec.mult (cellAt t) v := by
  rw [mult, toList_eq_map_bytes, List.countP_map, countP_bytes, Spec.mult]
  simp

theorem specMult_eq_one_iff (v : Byte) : Spec.mult (cellAt t) v = 1 ↔ ∃! x : Byte, cellAt t x = v := by
  rw [Spec.mult, Finset.card_eq_one]
  constructor
  · rintro ⟨x, hx⟩
    refine ⟨x, by simpa using (Finset.ext_iff.mp hx x).mpr (by simp), fun y hy => ?_⟩
    simpa using (Finset.ext_iff.mp hx y).mp (by simpa using hy)
  · rintro ⟨x, hx, hu⟩
    refine ⟨x, Finset.ext fun y => ?_⟩
    simp only [Finset.mem_filter, Finset.mem_univ, true_and, Finset.mem_singleton]
    exact ⟨fun h => hu y h, fun h => h ▸ hx⟩

/-- The permutation check accepts exactly the permutations. -/
theorem isPermutation_iff : isPermutation t = true ↔ Spec.Permutation (cellAt t) := by
  simp only [isPermutation, List.all_eq_true, mem_bytes, true_implies, beq_iff_eq, mult_eq,
    Spec.Permutation]

theorem dupcnt_eq : dupcnt t = Spec.dupcnt (cellAt t) := by
  rw [dupcnt, countP_bytes, Spec.dupcnt]
  simp [mult_eq]

/-- A table is a permutation exactly when it is one-to-one. -/
theorem permutation_iff_injective : Spec.Permutation (cellAt t) ↔ Function.Injective (cellAt t) := by
  rw [Finite.injective_iff_bijective, Function.bijective_iff_existsUnique]
  exact forall_congr' fun v => specMult_eq_one_iff t v

/-- A table that is not a permutation holds some value twice. -/
theorem exists_duplicate (h : ¬ Spec.Permutation (cellAt t)) : ∃ v, 2 ≤ Spec.mult (cellAt t) v := by
  rw [permutation_iff_injective] at h
  simp only [Function.Injective, not_forall] at h
  obtain ⟨x, y, e, ne⟩ := h
  refine ⟨cellAt t x, ?_⟩
  rw [Spec.mult, ← Finset.card_pair ne]
  apply Finset.card_le_card
  intro z hz
  rcases Finset.mem_insert.mp hz with rfl | hz
  · simp
  · rw [Finset.mem_singleton.mp hz]; simp [e]

/-- The byte found first in rising order is the least that qualifies. -/
theorem find?_bytes_least {p : Byte → Bool} {v : Byte} (h : bytes.find? p = some v) :
    p v = true ∧ ∀ u, p u = true → v ≤ u := by
  obtain ⟨hv, as, bs, e, hn⟩ := List.find?_eq_some_iff_append.mp h
  refine ⟨hv, fun u hu => ?_⟩
  by_contra hlt
  have hs : bytes.Pairwise (· < ·) := by
    rw [bytes, List.pairwise_map]
    refine List.Pairwise.imp_of_mem ?_ List.pairwise_lt_range
    intro a b ha hb hab
    rw [List.mem_range] at ha hb
    rw [BitVec.lt_def, BitVec.toNat_ofNat, BitVec.toNat_ofNat]
    omega
  have hm : u ∈ as ++ v :: bs := e ▸ mem_bytes u
  rw [e] at hs
  rcases List.mem_append.mp hm with hu' | hu'
  · exact absurd hu (by simpa using hn u hu')
  · rcases List.mem_cons.mp hu' with rfl | hu'
    · exact hlt (BitVec.le_refl u)
    · have := (List.pairwise_cons.mp (List.pairwise_append.mp hs).2.1).1 u hu'
      exact hlt (BitVec.le_of_lt this)

/-- `dupval` is the least duplicated value of a table that is not a permutation. -/
theorem dupval_isDupval (h : ¬ Spec.Permutation (cellAt t)) : Spec.IsDupval (cellAt t) (dupval t) := by
  obtain ⟨v, hv⟩ := exists_duplicate t h
  have hex : (bytes.find? fun v => decide (2 ≤ mult t v)).isSome = true := by
    rw [List.find?_isSome]
    exact ⟨v, mem_bytes v, by simpa [mult_eq] using hv⟩
  obtain ⟨w, hw⟩ := Option.isSome_iff_exists.mp hex
  have hl := find?_bytes_least hw
  have e : dupval t = w := by rw [dupval, hw]; rfl
  rw [e]
  exact ⟨by simpa [mult_eq] using hl.1, fun u hu => hl.2 u (by simpa [mult_eq] using hu)⟩

/-- The value a failed permutation check reports. -/
theorem dupinfo_isDupinfo (h : ¬ Spec.Permutation (cellAt t)) : Spec.IsDupinfo (cellAt t) (dupinfo t) := by
  refine ⟨dupval t, dupval_isDupval t h, ?_⟩
  have e : dupcnt t <<< 8 ||| (dupval t).toNat = Spec.dupcnt (cellAt t) * 256 + (dupval t).toNat := by
    rw [dupcnt_eq, Nat.shiftLeft_eq, Nat.mul_comm, ← Nat.two_pow_add_eq_or_of_lt (dupval t).isLt]
  rw [dupinfo, natWord, e]

/-! ### Affine transform (R161) -/

/-- Eight bits, assembled at their places by OR. -/
def assemble (r : Bool) (bits : Fin 8 → Bool) : Byte :=
  (List.finRange 8).foldl
    (fun y i => y ||| ((BitVec.ofBool (bits i)).setWidth 8 <<< (if r then 7 - i.val else i.val))) 0#8

/-- Each assembled bit stands at its place. -/
theorem getLsbD_assemble (r : Bool) (bits : Fin 8 → Bool) (i : Fin 8) :
    (assemble r bits).getLsbD (if r then 7 - i.val else i.val) = bits i := by
  have key : ∀ (r b0 b1 b2 b3 b4 b5 b6 b7 : Bool) (i : Fin 8),
      (assemble r fun j => [b0, b1, b2, b3, b4, b5, b6, b7][j]).getLsbD (if r then 7 - i.val else i.val)
        = [b0, b1, b2, b3, b4, b5, b6, b7][i] := by
    decide +kernel
  have e : bits = fun j => [bits 0, bits 1, bits 2, bits 3, bits 4, bits 5, bits 6, bits 7][j] := by
    funext j; fin_cases j <;> rfl
  have := key r (bits 0) (bits 1) (bits 2) (bits 3) (bits 4) (bits 5) (bits 6) (bits 7) i
  rw [← e] at this
  rw [this]
  exact (congrFun e i).symm

/-- Counting the bits from the other end gives the same parity. -/
theorem odd_rev (p : Fin 8 → Bool) : (Spec.odd fun k => p k.rev) = Spec.odd p := by
  have h : (Finset.univ.filter fun k : Fin 8 => p k.rev = true).card
      = (Finset.univ.filter fun k : Fin 8 => p k = true).card :=
    Finset.card_equiv Fin.revPerm fun k => by simp
  simp only [Spec.odd, h]

/-- One row against one vector, in both bit orders. -/
theorem parity_row (bord : Bool) (row v : Byte) :
    parity ((if bord then rev8 row else row) &&& v) = Spec.rowBit bord row v := by
  rw [parity_eq, Spec.parity, Spec.rowBit]
  cases bord with
  | false => simp
  | true =>
    rw [← odd_rev]
    congr 1
    funext k
    have h1 : 7 - k.val < 8 := by omega
    have h2 : 7 - (7 - k.val) = k.val := by omega
    simp [rev8, BitVec.getLsbD_reverse, BitVec.getMsbD_eq_getLsbD]
    rw [h2, decide_eq_true h1, Bool.true_and, BitVec.getLsbD_eq_getElem k.isLt]

/-- The product the machine computes has, at each place, the bit of its row. -/
theorem matv_isMatv (mat : Cells Byte 8) (ctrl : BitVec 3) (v : Byte) :
    Spec.IsMatv mat ctrl v (matv mat ctrl v) := by
  intro i
  rw [← parity_row]
  exact getLsbD_assemble (rord ctrl) (fun j => parity (matRow mat ctrl j &&& v)) i

/-- There is only one such byte. -/
theorem isMatv_unique {mat : Cells Byte 8} {ctrl : BitVec 3} {v y z : Byte}
    (hy : Spec.IsMatv mat ctrl v y) (hz : Spec.IsMatv mat ctrl v z) : y = z := by
  apply BitVec.eq_of_getLsbD_eq
  intro k hk
  cases hr : ctrl.getLsbD 0 with
  | false =>
    have e1 := hy ⟨k, hk⟩
    have e2 := hz ⟨k, hk⟩
    simp only [hr] at e1 e2
    exact e1.trans e2.symm
  | true =>
    have e1 := hy ⟨7 - k, by omega⟩
    have e2 := hz ⟨7 - k, by omega⟩
    simp only [hr, if_true, show 7 - (7 - k) = k by omega] at e1 e2
    exact e1.trans e2.symm

/-! ### S-box builder (R160) -/

theorem inv0_eq (E L : Cells Byte 256) (a : Byte) : inv0 E L a = Spec.inv0 (cellAt E) (cellAt L) a := rfl

theorem tmul_eq (E L : Cells Byte 256) (a b : Byte) : tmul E L a b = Spec.tmul (cellAt E) (cellAt L) a b :=
  rfl

/-- The byte the builder makes for an input is the one of the rule. -/
theorem sbx_isSbx (s : State) (x : Byte) : Spec.IsSbx s x (sbx s x) := by
  have e : sbx s x ^^^ s.const = matv s.mat s.ctrl (inv0 s.exp s.log x) := by
    rw [sbx, affine, BitVec.xor_assoc, BitVec.xor_self, BitVec.xor_zero]
  rw [Spec.IsSbx, e]
  exact matv_isMatv _ _ _

/-! ### Spectra (R180, R181) -/

theorem zipWith_map_bytes {α β γ : Type} (f : α → β → γ) (g : Byte → α) (h : Byte → β) :
    List.zipWith f (bytes.map g) (bytes.map h) = bytes.map fun x => f (g x) (h x) := by
  rw [List.zipWith_map, List.zipWith_self]

theorem correlation_eq (b a : Byte) : correlation (truth t b) (linear a) = Spec.walsh (cellAt t) b a := by
  rw [correlation, truth, linear, zipWith_map_bytes, sum_map_bytes, Spec.walsh]
  refine Finset.sum_congr rfl fun x _ => ?_
  have h : ∀ p q : Bool, (if (p == q) = true then (1 : Int) else -1)
      = if (p ^^ q) = false then (1 : Int) else -1 := by decide
  rw [boolFn, h, Spec.f, parity_eq, parity_eq]

theorem walsh_eq (b a : Byte) : walsh t b a = Spec.walsh (cellAt t) b a := correlation_eq t b a

theorem maxw_eq (b : Byte) : maxw t b = Spec.maxw (cellAt t) b := by
  rw [maxw, linears, List.map_map, maxOf_map_bytes, Spec.maxw]
  simp only [Function.comp_def, correlation_eq]

theorem nl_eq (b : Byte) : nl t b = Spec.nl (cellAt t) b := by rw [nl, maxw_eq, Spec.nl]

theorem nl_eq_fun : nl t = Spec.nl (cellAt t) := funext (nl_eq t)

/-! ### Avalanche (R200 to R204) -/

theorem dflip_eq (j : Fin 8) (x : Byte) : dflip t j.val x = Spec.dflip (cellAt t) j x := by
  rw [dflip, bitByte_fin, Spec.dflip]

theorem sacCount_eq (j i : Fin 8) : sacCount t j.val i.val = Spec.sac (cellAt t) j i := by
  simp only [sacCount, countP_bytes, dflip_eq, Spec.sac]

theorem bicCount_eq (i k j : Fin 8) : bicCount t i.val k.val j.val = Spec.bcnt (cellAt t) i k j := by
  simp only [bicCount, countP_bytes, dflip_eq, Spec.bcnt, bne_iff_ne]

theorem sum_map_range8 {M : Type} [AddCommMonoid M] (f : Nat → M) :
    ((List.range 8).map f).sum = ∑ j : Fin 8, f j.val := by
  rw [← List.sum_toFinset f List.nodup_range, List.toFinset_range, Finset.sum_range]

theorem bicSum_eq (i k : Fin 8) : bicSum t i.val k.val = Spec.bsum (cellAt t) i k := by
  simp only [bicSum, Spec.bsum, Fin.val_inj, sum_map_range8, bicCount_eq]

theorem sacTotal_eq : sacTotal t = ∑ j, ∑ i, Spec.sac (cellAt t) j i := by
  simp only [sacTotal, sum_map_range8, sacCount_eq]

theorem pairSums_sum : (pairSums t).sum = Spec.bsTotal (cellAt t) := by
  rw [pairSums, sum_map_bitPairs, Spec.bsTotal]
  exact Finset.sum_congr rfl fun p _ => bicSum_eq t p.1 p.2

/-- A cell of a table of pairs. -/
theorem get?_pairTable (f : Nat → Nat → Nat) (p q : Fin 8) :
    (pairTable f).get? (p.val * 8 + q.val) = some (f p.val q.val) := by
  have hlt : p.val * 8 + q.val < 64 := by omega
  rw [Cells.get?_of_lt _ hlt, pairTable, Cells.get_tabulate]
  have h1 : (p.val * 8 + q.val) / 8 = p.val := by omega
  have h2 : (p.val * 8 + q.val) % 8 = q.val := by omega
  simp only [h1, h2]

/-! ### Approximation (R216, R219) -/

theorem count_outputDiffs (dx dy : Byte) : (outputDiffs t dx).count dy = Spec.ddt (cellAt t) dx dy := by
  rw [outputDiffs, List.count, List.countP_map, countP_bytes, Spec.ddt]
  simp

theorem ddt_eq (dx dy : Byte) : ddt t dx dy = Spec.ddt (cellAt t) dx dy := count_outputDiffs t dx dy

theorem ddtRowMax_eq (dx : Byte) : ddtRowMax t dx = Finset.univ.sup (Spec.ddt (cellAt t) dx) := by
  simp only [ddtRowMax, count_outputDiffs, maxOf_map_bytes]

theorem agreements_eq (a b : Byte) : agreements (linear a) (truth t b) = Spec.lat (cellAt t) a b := by
  rw [agreements, truth, linear, zipWith_map_bytes, List.count, List.countP_map, countP_bytes, Spec.lat]
  simp [boolFn, parity_eq]

theorem lat_eq (a b : Byte) : lat t a b = Spec.lat (cellAt t) a b := agreements_eq t a b

/-- The greatest bias of a column, over the list of non-zero masks. -/
theorem latColumnMax_eq (b : Byte) :
    latColumnMax t b = maxOf (nonzeroBytes.map fun a => Spec.bias (cellAt t) a b) := by
  simp only [latColumnMax, nonzeroLinears, List.map_map, Function.comp_def, agreements_eq]
  rfl

end Sys2Proof.Machine
end

