-- ==== Sys2Proof/Laws/Decode.lean ====
section
/-! SUPPORT. The fields of an encoded word, and the inverse of the register field (30_encoding.md R112 to
R114). A proof about `decode (encode i)` rewrites with these and never unfolds a bit string. -/

namespace Sys2Proof

/-- A concatenation as a number. -/
theorem toNat_append_eq {m n : Nat} (a : BitVec m) (b : BitVec n) :
    (a ++ b).toNat = a.toNat * 2 ^ n + b.toNat := by
  rw [BitVec.toNat_append, Nat.shiftLeft_eq, Nat.mul_comm, ← Nat.two_pow_add_eq_or_of_lt b.isLt]

variable (op : BitVec 8) (rd rs1 rs2 : BitVec 4) (sel : Sel) (imm : BitVec 16)

/-- A format X word as a number (R112). -/
theorem formatX_toNat : (formatX op rd rs1 rs2 sel).toNat
    = (((op.toNat * 16 + rd.toNat) * 16 + rs1.toNat) * 16 + rs2.toNat) * 4096 + sel.toNat := by
  have h : (formatX op rd rs1 rs2 sel).toNat
      = (HAppend.hAppend (α := BitVec 20) (β := BitVec 12)
          (HAppend.hAppend (α := BitVec 16) (β := BitVec 4)
            (HAppend.hAppend (α := BitVec 12) (β := BitVec 4) (op ++ rd) rs1) rs2) sel
          : BitVec (20 + 12)).toNat := rfl
  rw [h]
  simp only [toNat_append_eq]
  norm_num

/-- A format I word as a number (R113). -/
theorem formatI_toNat : (formatI op rd imm).toNat
    = (op.toNat * 16 + rd.toNat) * 1048576 + imm.toNat := by
  have h : (formatI op rd imm).toNat
      = (HAppend.hAppend (α := BitVec 16) (β := BitVec 16)
          (HAppend.hAppend (α := BitVec 12) (β := BitVec 4) (op ++ rd) 0#4) imm
          : BitVec (16 + 16)).toNat := rfl
  rw [h]
  simp only [toNat_append_eq, BitVec.toNat_ofNat]
  omega

/-! ### The fields of a word as numbers (R114) -/

theorem opField_toNat (w : Word) : (opField w).toNat = w.toNat / 16777216 := by
  simp only [opField, BitVec.extractLsb'_toNat, Nat.shiftRight_eq_div_pow]
  have := w.isLt
  omega

theorem rdField_toNat (w : Word) : (rdField w).toNat = w.toNat / 1048576 % 16 := by
  simp only [rdField, BitVec.extractLsb'_toNat, Nat.shiftRight_eq_div_pow]

theorem rs1Field_toNat (w : Word) : (rs1Field w).toNat = w.toNat / 65536 % 16 := by
  simp only [rs1Field, BitVec.extractLsb'_toNat, Nat.shiftRight_eq_div_pow]

theorem rs2Field_toNat (w : Word) : (rs2Field w).toNat = w.toNat / 4096 % 16 := by
  simp only [rs2Field, BitVec.extractLsb'_toNat, Nat.shiftRight_eq_div_pow]

theorem selField_toNat (w : Word) : (selField w).toNat = w.toNat % 4096 := by
  simp only [selField, BitVec.extractLsb'_toNat, Nat.shiftRight_eq_div_pow]
  omega

theorem immField_toNat (w : Word) : (immField w).toNat = w.toNat % 65536 := by
  simp only [immField, BitVec.extractLsb'_toNat, Nat.shiftRight_eq_div_pow]
  omega

/-! ### The fields of a format X word (R112) -/

@[simp] theorem opField_formatX : opField (formatX op rd rs1 rs2 sel) = op := by
  apply BitVec.eq_of_toNat_eq
  rw [opField_toNat, formatX_toNat]
  have := rd.isLt; have := rs1.isLt; have := rs2.isLt; have := sel.isLt
  omega

@[simp] theorem rdField_formatX : rdField (formatX op rd rs1 rs2 sel) = rd := by
  apply BitVec.eq_of_toNat_eq
  rw [rdField_toNat, formatX_toNat]
  have := rd.isLt; have := rs1.isLt; have := rs2.isLt; have := sel.isLt
  omega

@[simp] theorem rs1Field_formatX : rs1Field (formatX op rd rs1 rs2 sel) = rs1 := by
  apply BitVec.eq_of_toNat_eq
  rw [rs1Field_toNat, formatX_toNat]
  have := rs1.isLt; have := rs2.isLt; have := sel.isLt
  omega

@[simp] theorem rs2Field_formatX : rs2Field (formatX op rd rs1 rs2 sel) = rs2 := by
  apply BitVec.eq_of_toNat_eq
  rw [rs2Field_toNat, formatX_toNat]
  have := rs2.isLt; have := sel.isLt
  omega

@[simp] theorem selField_formatX : selField (formatX op rd rs1 rs2 sel) = sel := by
  apply BitVec.eq_of_toNat_eq
  rw [selField_toNat, formatX_toNat]
  have := sel.isLt
  omega

/-! ### The fields of a format I word (R113) -/

@[simp] theorem opField_formatI : opField (formatI op rd imm) = op := by
  apply BitVec.eq_of_toNat_eq
  rw [opField_toNat, formatI_toNat]
  have := rd.isLt; have := imm.isLt
  omega

@[simp] theorem rdField_formatI : rdField (formatI op rd imm) = rd := by
  apply BitVec.eq_of_toNat_eq
  rw [rdField_toNat, formatI_toNat]
  have := rd.isLt; have := imm.isLt
  omega

@[simp] theorem rs1Field_formatI : rs1Field (formatI op rd imm) = 0#4 := by
  apply BitVec.eq_of_toNat_eq
  rw [rs1Field_toNat, formatI_toNat, BitVec.toNat_ofNat]
  have := imm.isLt
  omega

@[simp] theorem immField_formatI : immField (formatI op rd imm) = imm := by
  apply BitVec.eq_of_toNat_eq
  rw [immField_toNat, formatI_toNat]
  have := imm.isLt
  omega

/-! ### A word is its fields -/

/-- Every word is the format X word of its five fields. -/
theorem formatX_fields (w : Word) :
    formatX (opField w) (rdField w) (rs1Field w) (rs2Field w) (selField w) = w := by
  apply BitVec.eq_of_toNat_eq
  rw [formatX_toNat, opField_toNat, rdField_toNat, rs1Field_toNat, rs2Field_toNat, selField_toNat]
  omega

/-- A word with `z = 0` is the format I word of its other fields. -/
theorem formatI_fields (w : Word) (h : rs1Field w = 0#4) :
    formatI (opField w) (rdField w) (immField w) = w := by
  have hz := congrArg BitVec.toNat h
  rw [rs1Field_toNat, BitVec.toNat_ofNat] at hz
  apply BitVec.eq_of_toNat_eq
  rw [formatI_toNat, opField_toNat, rdField_toNat, immField_toNat]
  omega

/-! ### Register fields -/

@[simp] theorem fieldReg_regField (r : RegNum) : fieldReg (regField r) = r := by
  apply Fin.ext
  simp [fieldReg, regField]

@[simp] theorem regField_fieldReg (f : BitVec 4) : regField (fieldReg f) = f := by
  simp [fieldReg, regField]

theorem ifUnusedZero_ok {b : Bool} {i j : Instr} (h : ifUnusedZero b i = .ok j) : b = true ∧ i = j := by
  cases b <;> simp_all [ifUnusedZero]

end Sys2Proof
end

