-- ==== Sys2Proof/Laws/State.lean ====
section
/-! SUPPORT. One lemma per field of the state and per named update: what the field holds after it. All are
true by unfolding, so that no later proof unfolds a record update. -/

namespace Sys2Proof.Machine

variable (s : State)

/-! ### setReg -/

@[simp] theorem State.setReg_x (r : RegNum) (v : Word) : (s.setReg r v).x = s.x.set r v := rfl
@[simp] theorem State.setReg_cc (r : RegNum) (v : Word) : (s.setReg r v).cc = s.cc := rfl
@[simp] theorem State.setReg_status (r : RegNum) (v : Word) : (s.setReg r v).status = s.status := rfl
@[simp] theorem State.setReg_ctrl (r : RegNum) (v : Word) : (s.setReg r v).ctrl = s.ctrl := rfl
@[simp] theorem State.setReg_record (r : RegNum) (v : Word) : (s.setReg r v).record = s.record := rfl
@[simp] theorem State.setReg_gen (r : RegNum) (v : Word) : (s.setReg r v).gen = s.gen := rfl
@[simp] theorem State.setReg_const (r : RegNum) (v : Word) : (s.setReg r v).const = s.const := rfl
@[simp] theorem State.setReg_wstag (r : RegNum) (v : Word) : (s.setReg r v).wstag = s.wstag := rfl
@[simp] theorem State.setReg_drtag (r : RegNum) (v : Word) : (s.setReg r v).drtag = s.drtag := rfl
@[simp] theorem State.setReg_lctag (r : RegNum) (v : Word) : (s.setReg r v).lctag = s.lctag := rfl
@[simp] theorem State.setReg_bankA (r : RegNum) (v : Word) : (s.setReg r v).bankA = s.bankA := rfl
@[simp] theorem State.setReg_bankB (r : RegNum) (v : Word) : (s.setReg r v).bankB = s.bankB := rfl
@[simp] theorem State.setReg_cmp (r : RegNum) (v : Word) : (s.setReg r v).cmp = s.cmp := rfl
@[simp] theorem State.setReg_mat (r : RegNum) (v : Word) : (s.setReg r v).mat = s.mat := rfl
@[simp] theorem State.setReg_exp (r : RegNum) (v : Word) : (s.setReg r v).exp = s.exp := rfl
@[simp] theorem State.setReg_log (r : RegNum) (v : Word) : (s.setReg r v).log = s.log := rfl
@[simp] theorem State.setReg_sbox (r : RegNum) (v : Word) : (s.setReg r v).sbox = s.sbox := rfl
@[simp] theorem State.setReg_ws (r : RegNum) (v : Word) : (s.setReg r v).ws = s.ws := rfl
@[simp] theorem State.setReg_dr (r : RegNum) (v : Word) : (s.setReg r v).dr = s.dr := rfl
@[simp] theorem State.setReg_lc (r : RegNum) (v : Word) : (s.setReg r v).lc = s.lc := rfl
@[simp] theorem State.setReg_sacm (r : RegNum) (v : Word) : (s.setReg r v).sacm = s.sacm := rfl
@[simp] theorem State.setReg_bsm (r : RegNum) (v : Word) : (s.setReg r v).bsm = s.bsm := rfl
@[simp] theorem State.setReg_input (r : RegNum) (v : Word) : (s.setReg r v).input = s.input := rfl
@[simp] theorem State.setReg_responses (r : RegNum) (v : Word) :
    (s.setReg r v).responses = s.responses := rfl

/-! ### writeSbox -/

@[simp] theorem State.writeSbox_x (i v : Byte) : (s.writeSbox i v).x = s.x := rfl
@[simp] theorem State.writeSbox_cc (i v : Byte) : (s.writeSbox i v).cc = s.cc := rfl
@[simp] theorem State.writeSbox_status (i v : Byte) : (s.writeSbox i v).status = s.status := rfl
@[simp] theorem State.writeSbox_ctrl (i v : Byte) : (s.writeSbox i v).ctrl = s.ctrl := rfl
@[simp] theorem State.writeSbox_record (i v : Byte) : (s.writeSbox i v).record = s.record := rfl
@[simp] theorem State.writeSbox_gen (i v : Byte) : (s.writeSbox i v).gen = s.gen := rfl
@[simp] theorem State.writeSbox_const (i v : Byte) : (s.writeSbox i v).const = s.const := rfl
@[simp] theorem State.writeSbox_wstag (i v : Byte) : (s.writeSbox i v).wstag = s.wstag := rfl
@[simp] theorem State.writeSbox_drtag (i v : Byte) : (s.writeSbox i v).drtag = s.drtag := rfl
@[simp] theorem State.writeSbox_lctag (i v : Byte) : (s.writeSbox i v).lctag = s.lctag := rfl
@[simp] theorem State.writeSbox_bankA (i v : Byte) : (s.writeSbox i v).bankA = s.bankA := rfl
@[simp] theorem State.writeSbox_bankB (i v : Byte) : (s.writeSbox i v).bankB = s.bankB := rfl
@[simp] theorem State.writeSbox_cmp (i v : Byte) : (s.writeSbox i v).cmp = s.cmp := rfl
@[simp] theorem State.writeSbox_mat (i v : Byte) : (s.writeSbox i v).mat = s.mat := rfl
@[simp] theorem State.writeSbox_exp (i v : Byte) : (s.writeSbox i v).exp = s.exp := rfl
@[simp] theorem State.writeSbox_log (i v : Byte) : (s.writeSbox i v).log = s.log := rfl
@[simp] theorem State.writeSbox_sbox (i v : Byte) :
    (s.writeSbox i v).sbox = s.sbox.set (byteIndex i) v := rfl
@[simp] theorem State.writeSbox_ws (i v : Byte) : (s.writeSbox i v).ws = s.ws := rfl
@[simp] theorem State.writeSbox_dr (i v : Byte) : (s.writeSbox i v).dr = s.dr := rfl
@[simp] theorem State.writeSbox_lc (i v : Byte) : (s.writeSbox i v).lc = s.lc := rfl
@[simp] theorem State.writeSbox_sacm (i v : Byte) : (s.writeSbox i v).sacm = s.sacm := rfl
@[simp] theorem State.writeSbox_bsm (i v : Byte) : (s.writeSbox i v).bsm = s.bsm := rfl
@[simp] theorem State.writeSbox_input (i v : Byte) : (s.writeSbox i v).input = s.input := rfl
@[simp] theorem State.writeSbox_responses (i v : Byte) : (s.writeSbox i v).responses = s.responses := rfl

/-! ### writeMat -/

@[simp] theorem State.writeMat_x (i : Fin 8) (v : Byte) : (s.writeMat i v).x = s.x := rfl
@[simp] theorem State.writeMat_cc (i : Fin 8) (v : Byte) : (s.writeMat i v).cc = s.cc := rfl
@[simp] theorem State.writeMat_status (i : Fin 8) (v : Byte) : (s.writeMat i v).status = s.status := rfl
@[simp] theorem State.writeMat_ctrl (i : Fin 8) (v : Byte) : (s.writeMat i v).ctrl = s.ctrl := rfl
@[simp] theorem State.writeMat_record (i : Fin 8) (v : Byte) : (s.writeMat i v).record = s.record := rfl
@[simp] theorem State.writeMat_gen (i : Fin 8) (v : Byte) : (s.writeMat i v).gen = s.gen := rfl
@[simp] theorem State.writeMat_const (i : Fin 8) (v : Byte) : (s.writeMat i v).const = s.const := rfl
@[simp] theorem State.writeMat_wstag (i : Fin 8) (v : Byte) : (s.writeMat i v).wstag = s.wstag := rfl
@[simp] theorem State.writeMat_drtag (i : Fin 8) (v : Byte) : (s.writeMat i v).drtag = s.drtag := rfl
@[simp] theorem State.writeMat_lctag (i : Fin 8) (v : Byte) : (s.writeMat i v).lctag = s.lctag := rfl
@[simp] theorem State.writeMat_bankA (i : Fin 8) (v : Byte) : (s.writeMat i v).bankA = s.bankA := rfl
@[simp] theorem State.writeMat_bankB (i : Fin 8) (v : Byte) : (s.writeMat i v).bankB = s.bankB := rfl
@[simp] theorem State.writeMat_cmp (i : Fin 8) (v : Byte) : (s.writeMat i v).cmp = s.cmp := rfl
@[simp] theorem State.writeMat_mat (i : Fin 8) (v : Byte) : (s.writeMat i v).mat = s.mat.set i v := rfl
@[simp] theorem State.writeMat_exp (i : Fin 8) (v : Byte) : (s.writeMat i v).exp = s.exp := rfl
@[simp] theorem State.writeMat_log (i : Fin 8) (v : Byte) : (s.writeMat i v).log = s.log := rfl
@[simp] theorem State.writeMat_sbox (i : Fin 8) (v : Byte) : (s.writeMat i v).sbox = s.sbox := rfl
@[simp] theorem State.writeMat_ws (i : Fin 8) (v : Byte) : (s.writeMat i v).ws = s.ws := rfl
@[simp] theorem State.writeMat_dr (i : Fin 8) (v : Byte) : (s.writeMat i v).dr = s.dr := rfl
@[simp] theorem State.writeMat_lc (i : Fin 8) (v : Byte) : (s.writeMat i v).lc = s.lc := rfl
@[simp] theorem State.writeMat_sacm (i : Fin 8) (v : Byte) : (s.writeMat i v).sacm = s.sacm := rfl
@[simp] theorem State.writeMat_bsm (i : Fin 8) (v : Byte) : (s.writeMat i v).bsm = s.bsm := rfl
@[simp] theorem State.writeMat_input (i : Fin 8) (v : Byte) : (s.writeMat i v).input = s.input := rfl
@[simp] theorem State.writeMat_responses (i : Fin 8) (v : Byte) :
    (s.writeMat i v).responses = s.responses := rfl

/-! ### sboxChanged -/

@[simp] theorem State.sboxChanged_x (b : Bool) : (s.sboxChanged b).x = s.x := rfl
@[simp] theorem State.sboxChanged_cc (b : Bool) : (s.sboxChanged b).cc = s.cc := rfl
@[simp] theorem State.sboxChanged_status (b : Bool) :
    (s.sboxChanged b).status = { s.status with sbv := b, wsv := false, drv := false, lcv := false } := rfl
@[simp] theorem State.sboxChanged_ctrl (b : Bool) : (s.sboxChanged b).ctrl = s.ctrl := rfl
@[simp] theorem State.sboxChanged_record (b : Bool) : (s.sboxChanged b).record = s.record := rfl
@[simp] theorem State.sboxChanged_gen (b : Bool) : (s.sboxChanged b).gen = s.gen := rfl
@[simp] theorem State.sboxChanged_const (b : Bool) : (s.sboxChanged b).const = s.const := rfl
@[simp] theorem State.sboxChanged_wstag (b : Bool) : (s.sboxChanged b).wstag = s.wstag := rfl
@[simp] theorem State.sboxChanged_drtag (b : Bool) : (s.sboxChanged b).drtag = s.drtag := rfl
@[simp] theorem State.sboxChanged_lctag (b : Bool) : (s.sboxChanged b).lctag = s.lctag := rfl
@[simp] theorem State.sboxChanged_bankA (b : Bool) :
    (s.sboxChanged b).bankA = { s.bankA with valid := ReportValid.none } := rfl
@[simp] theorem State.sboxChanged_bankB (b : Bool) : (s.sboxChanged b).bankB = s.bankB := rfl
@[simp] theorem State.sboxChanged_cmp (b : Bool) : (s.sboxChanged b).cmp = s.cmp := rfl
@[simp] theorem State.sboxChanged_mat (b : Bool) : (s.sboxChanged b).mat = s.mat := rfl
@[simp] theorem State.sboxChanged_exp (b : Bool) : (s.sboxChanged b).exp = s.exp := rfl
@[simp] theorem State.sboxChanged_log (b : Bool) : (s.sboxChanged b).log = s.log := rfl
@[simp] theorem State.sboxChanged_sbox (b : Bool) : (s.sboxChanged b).sbox = s.sbox := rfl
@[simp] theorem State.sboxChanged_ws (b : Bool) : (s.sboxChanged b).ws = s.ws := rfl
@[simp] theorem State.sboxChanged_dr (b : Bool) : (s.sboxChanged b).dr = s.dr := rfl
@[simp] theorem State.sboxChanged_lc (b : Bool) : (s.sboxChanged b).lc = s.lc := rfl
@[simp] theorem State.sboxChanged_sacm (b : Bool) : (s.sboxChanged b).sacm = s.sacm := rfl
@[simp] theorem State.sboxChanged_bsm (b : Bool) : (s.sboxChanged b).bsm = s.bsm := rfl
@[simp] theorem State.sboxChanged_input (b : Bool) : (s.sboxChanged b).input = s.input := rfl
@[simp] theorem State.sboxChanged_responses (b : Bool) : (s.sboxChanged b).responses = s.responses := rfl

/-! ### retire -/

@[simp] theorem State.retire_x (r : Response) : (s.retire r).x = s.x := rfl
@[simp] theorem State.retire_cc (r : Response) : (s.retire r).cc = s.cc + 1#32 := rfl
@[simp] theorem State.retire_status (r : Response) : (s.retire r).status = s.status := rfl
@[simp] theorem State.retire_ctrl (r : Response) : (s.retire r).ctrl = s.ctrl := rfl
@[simp] theorem State.retire_record (r : Response) : (s.retire r).record = s.record := rfl
@[simp] theorem State.retire_gen (r : Response) : (s.retire r).gen = s.gen := rfl
@[simp] theorem State.retire_const (r : Response) : (s.retire r).const = s.const := rfl
@[simp] theorem State.retire_wstag (r : Response) : (s.retire r).wstag = s.wstag := rfl
@[simp] theorem State.retire_drtag (r : Response) : (s.retire r).drtag = s.drtag := rfl
@[simp] theorem State.retire_lctag (r : Response) : (s.retire r).lctag = s.lctag := rfl
@[simp] theorem State.retire_bankA (r : Response) : (s.retire r).bankA = s.bankA := rfl
@[simp] theorem State.retire_bankB (r : Response) : (s.retire r).bankB = s.bankB := rfl
@[simp] theorem State.retire_cmp (r : Response) : (s.retire r).cmp = s.cmp := rfl
@[simp] theorem State.retire_mat (r : Response) : (s.retire r).mat = s.mat := rfl
@[simp] theorem State.retire_exp (r : Response) : (s.retire r).exp = s.exp := rfl
@[simp] theorem State.retire_log (r : Response) : (s.retire r).log = s.log := rfl
@[simp] theorem State.retire_sbox (r : Response) : (s.retire r).sbox = s.sbox := rfl
@[simp] theorem State.retire_ws (r : Response) : (s.retire r).ws = s.ws := rfl
@[simp] theorem State.retire_dr (r : Response) : (s.retire r).dr = s.dr := rfl
@[simp] theorem State.retire_lc (r : Response) : (s.retire r).lc = s.lc := rfl
@[simp] theorem State.retire_sacm (r : Response) : (s.retire r).sacm = s.sacm := rfl
@[simp] theorem State.retire_bsm (r : Response) : (s.retire r).bsm = s.bsm := rfl
@[simp] theorem State.retire_input (r : Response) : (s.retire r).input = s.input := rfl
@[simp] theorem State.retire_responses (r : Response) : (s.retire r).responses = s.responses ++ [r] := rfl

/-! ### clearException -/

@[simp] theorem State.clearException_x : (s.clearException).x = s.x := rfl
@[simp] theorem State.clearException_cc : (s.clearException).cc = s.cc := rfl
@[simp] theorem State.clearException_status :
    (s.clearException).status = { s.status with err := false } := rfl
@[simp] theorem State.clearException_ctrl : (s.clearException).ctrl = s.ctrl := rfl
@[simp] theorem State.clearException_record : (s.clearException).record = ExceptionRecord.cleared := rfl
@[simp] theorem State.clearException_gen : (s.clearException).gen = s.gen := rfl
@[simp] theorem State.clearException_const : (s.clearException).const = s.const := rfl
@[simp] theorem State.clearException_wstag : (s.clearException).wstag = s.wstag := rfl
@[simp] theorem State.clearException_drtag : (s.clearException).drtag = s.drtag := rfl
@[simp] theorem State.clearException_lctag : (s.clearException).lctag = s.lctag := rfl
@[simp] theorem State.clearException_bankA : (s.clearException).bankA = s.bankA := rfl
@[simp] theorem State.clearException_bankB : (s.clearException).bankB = s.bankB := rfl
@[simp] theorem State.clearException_cmp : (s.clearException).cmp = s.cmp := rfl
@[simp] theorem State.clearException_mat : (s.clearException).mat = s.mat := rfl
@[simp] theorem State.clearException_exp : (s.clearException).exp = s.exp := rfl
@[simp] theorem State.clearException_log : (s.clearException).log = s.log := rfl
@[simp] theorem State.clearException_sbox : (s.clearException).sbox = s.sbox := rfl
@[simp] theorem State.clearException_ws : (s.clearException).ws = s.ws := rfl
@[simp] theorem State.clearException_dr : (s.clearException).dr = s.dr := rfl
@[simp] theorem State.clearException_lc : (s.clearException).lc = s.lc := rfl
@[simp] theorem State.clearException_sacm : (s.clearException).sacm = s.sacm := rfl
@[simp] theorem State.clearException_bsm : (s.clearException).bsm = s.bsm := rfl
@[simp] theorem State.clearException_input : (s.clearException).input = s.input := rfl
@[simp] theorem State.clearException_responses : (s.clearException).responses = s.responses := rfl

/-! ### writeNl -/

@[simp] theorem writeNl_x : (writeNl s).x = s.x := rfl
@[simp] theorem writeNl_cc : (writeNl s).cc = s.cc := rfl
@[simp] theorem writeNl_status : (writeNl s).status = s.status := rfl
@[simp] theorem writeNl_ctrl : (writeNl s).ctrl = s.ctrl := rfl
@[simp] theorem writeNl_record : (writeNl s).record = s.record := rfl
@[simp] theorem writeNl_gen : (writeNl s).gen = s.gen := rfl
@[simp] theorem writeNl_const : (writeNl s).const = s.const := rfl
@[simp] theorem writeNl_wstag : (writeNl s).wstag = s.wstag := rfl
@[simp] theorem writeNl_drtag : (writeNl s).drtag = s.drtag := rfl
@[simp] theorem writeNl_lctag : (writeNl s).lctag = s.lctag := rfl
@[simp] theorem writeNl_bankA :
    (writeNl s).bankA = { s.bankA with nlMin := natWord (minOf (nlValues s.sbox)), nlMax := natWord (maxOf (nlValues s.sbox)), nlSum := natWord (nlValues s.sbox).sum, valid := { s.bankA.valid with nl := true } } := rfl
@[simp] theorem writeNl_bankB : (writeNl s).bankB = s.bankB := rfl
@[simp] theorem writeNl_cmp : (writeNl s).cmp = s.cmp := rfl
@[simp] theorem writeNl_mat : (writeNl s).mat = s.mat := rfl
@[simp] theorem writeNl_exp : (writeNl s).exp = s.exp := rfl
@[simp] theorem writeNl_log : (writeNl s).log = s.log := rfl
@[simp] theorem writeNl_sbox : (writeNl s).sbox = s.sbox := rfl
@[simp] theorem writeNl_ws : (writeNl s).ws = s.ws := rfl
@[simp] theorem writeNl_dr : (writeNl s).dr = s.dr := rfl
@[simp] theorem writeNl_lc : (writeNl s).lc = s.lc := rfl
@[simp] theorem writeNl_sacm : (writeNl s).sacm = s.sacm := rfl
@[simp] theorem writeNl_bsm : (writeNl s).bsm = s.bsm := rfl
@[simp] theorem writeNl_input : (writeNl s).input = s.input := rfl
@[simp] theorem writeNl_responses : (writeNl s).responses = s.responses := rfl

/-! ### writeBicnl -/

@[simp] theorem writeBicnl_x : (writeBicnl s).x = s.x := rfl
@[simp] theorem writeBicnl_cc : (writeBicnl s).cc = s.cc := rfl
@[simp] theorem writeBicnl_status : (writeBicnl s).status = s.status := rfl
@[simp] theorem writeBicnl_ctrl : (writeBicnl s).ctrl = s.ctrl := rfl
@[simp] theorem writeBicnl_record : (writeBicnl s).record = s.record := rfl
@[simp] theorem writeBicnl_gen : (writeBicnl s).gen = s.gen := rfl
@[simp] theorem writeBicnl_const : (writeBicnl s).const = s.const := rfl
@[simp] theorem writeBicnl_wstag : (writeBicnl s).wstag = s.wstag := rfl
@[simp] theorem writeBicnl_drtag : (writeBicnl s).drtag = s.drtag := rfl
@[simp] theorem writeBicnl_lctag : (writeBicnl s).lctag = s.lctag := rfl
@[simp] theorem writeBicnl_bankA :
    (writeBicnl s).bankA = { s.bankA with bnMin := natWord (minOf (bicNlValues s.sbox)), bnMax := natWord (maxOf (bicNlValues s.sbox)), bnSum := natWord (bicNlValues s.sbox).sum, valid := { s.bankA.valid with bn := true } } := rfl
@[simp] theorem writeBicnl_bankB : (writeBicnl s).bankB = s.bankB := rfl
@[simp] theorem writeBicnl_cmp : (writeBicnl s).cmp = s.cmp := rfl
@[simp] theorem writeBicnl_mat : (writeBicnl s).mat = s.mat := rfl
@[simp] theorem writeBicnl_exp : (writeBicnl s).exp = s.exp := rfl
@[simp] theorem writeBicnl_log : (writeBicnl s).log = s.log := rfl
@[simp] theorem writeBicnl_sbox : (writeBicnl s).sbox = s.sbox := rfl
@[simp] theorem writeBicnl_ws : (writeBicnl s).ws = s.ws := rfl
@[simp] theorem writeBicnl_dr : (writeBicnl s).dr = s.dr := rfl
@[simp] theorem writeBicnl_lc : (writeBicnl s).lc = s.lc := rfl
@[simp] theorem writeBicnl_sacm : (writeBicnl s).sacm = s.sacm := rfl
@[simp] theorem writeBicnl_bsm : (writeBicnl s).bsm = s.bsm := rfl
@[simp] theorem writeBicnl_input : (writeBicnl s).input = s.input := rfl
@[simp] theorem writeBicnl_responses : (writeBicnl s).responses = s.responses := rfl

/-! ### writeSac -/

@[simp] theorem writeSac_x : (writeSac s).x = s.x := rfl
@[simp] theorem writeSac_cc : (writeSac s).cc = s.cc := rfl
@[simp] theorem writeSac_status : (writeSac s).status = s.status := rfl
@[simp] theorem writeSac_ctrl : (writeSac s).ctrl = s.ctrl := rfl
@[simp] theorem writeSac_record : (writeSac s).record = s.record := rfl
@[simp] theorem writeSac_gen : (writeSac s).gen = s.gen := rfl
@[simp] theorem writeSac_const : (writeSac s).const = s.const := rfl
@[simp] theorem writeSac_wstag : (writeSac s).wstag = s.wstag := rfl
@[simp] theorem writeSac_drtag : (writeSac s).drtag = s.drtag := rfl
@[simp] theorem writeSac_lctag : (writeSac s).lctag = s.lctag := rfl
@[simp] theorem writeSac_bankA :
    (writeSac s).bankA = { s.bankA with sacSum := natWord (sacTotal s.sbox), valid := { s.bankA.valid with sac := true } } := rfl
@[simp] theorem writeSac_bankB : (writeSac s).bankB = s.bankB := rfl
@[simp] theorem writeSac_cmp : (writeSac s).cmp = s.cmp := rfl
@[simp] theorem writeSac_mat : (writeSac s).mat = s.mat := rfl
@[simp] theorem writeSac_exp : (writeSac s).exp = s.exp := rfl
@[simp] theorem writeSac_log : (writeSac s).log = s.log := rfl
@[simp] theorem writeSac_sbox : (writeSac s).sbox = s.sbox := rfl
@[simp] theorem writeSac_ws : (writeSac s).ws = s.ws := rfl
@[simp] theorem writeSac_dr : (writeSac s).dr = s.dr := rfl
@[simp] theorem writeSac_lc : (writeSac s).lc = s.lc := rfl
@[simp] theorem writeSac_sacm : (writeSac s).sacm = pairTable (sacCount s.sbox) := rfl
@[simp] theorem writeSac_bsm : (writeSac s).bsm = s.bsm := rfl
@[simp] theorem writeSac_input : (writeSac s).input = s.input := rfl
@[simp] theorem writeSac_responses : (writeSac s).responses = s.responses := rfl

/-! ### writeBicsac -/

@[simp] theorem writeBicsac_x : (writeBicsac s).x = s.x := rfl
@[simp] theorem writeBicsac_cc : (writeBicsac s).cc = s.cc := rfl
@[simp] theorem writeBicsac_status : (writeBicsac s).status = s.status := rfl
@[simp] theorem writeBicsac_ctrl : (writeBicsac s).ctrl = s.ctrl := rfl
@[simp] theorem writeBicsac_record : (writeBicsac s).record = s.record := rfl
@[simp] theorem writeBicsac_gen : (writeBicsac s).gen = s.gen := rfl
@[simp] theorem writeBicsac_const : (writeBicsac s).const = s.const := rfl
@[simp] theorem writeBicsac_wstag : (writeBicsac s).wstag = s.wstag := rfl
@[simp] theorem writeBicsac_drtag : (writeBicsac s).drtag = s.drtag := rfl
@[simp] theorem writeBicsac_lctag : (writeBicsac s).lctag = s.lctag := rfl
@[simp] theorem writeBicsac_bankA :
    (writeBicsac s).bankA = { s.bankA with bsMin := natWord (minOf (pairSums s.sbox)), bsMax := natWord (maxOf (pairSums s.sbox)), bsSum := natWord (pairSums s.sbox).sum, bsDev := natWord (bicDeviation (pairSums s.sbox).sum (bicBase s.ctrl)), valid := { s.bankA.valid with bs := true, bsBase := bicBase s.ctrl } } := rfl
@[simp] theorem writeBicsac_bankB : (writeBicsac s).bankB = s.bankB := rfl
@[simp] theorem writeBicsac_cmp : (writeBicsac s).cmp = s.cmp := rfl
@[simp] theorem writeBicsac_mat : (writeBicsac s).mat = s.mat := rfl
@[simp] theorem writeBicsac_exp : (writeBicsac s).exp = s.exp := rfl
@[simp] theorem writeBicsac_log : (writeBicsac s).log = s.log := rfl
@[simp] theorem writeBicsac_sbox : (writeBicsac s).sbox = s.sbox := rfl
@[simp] theorem writeBicsac_ws : (writeBicsac s).ws = s.ws := rfl
@[simp] theorem writeBicsac_dr : (writeBicsac s).dr = s.dr := rfl
@[simp] theorem writeBicsac_lc : (writeBicsac s).lc = s.lc := rfl
@[simp] theorem writeBicsac_sacm : (writeBicsac s).sacm = s.sacm := rfl
@[simp] theorem writeBicsac_bsm : (writeBicsac s).bsm = pairTable (bicSum s.sbox) := rfl
@[simp] theorem writeBicsac_input : (writeBicsac s).input = s.input := rfl
@[simp] theorem writeBicsac_responses : (writeBicsac s).responses = s.responses := rfl

/-! ### writeDap -/

@[simp] theorem writeDap_x : (writeDap s).x = s.x := rfl
@[simp] theorem writeDap_cc : (writeDap s).cc = s.cc := rfl
@[simp] theorem writeDap_status : (writeDap s).status = s.status := rfl
@[simp] theorem writeDap_ctrl : (writeDap s).ctrl = s.ctrl := rfl
@[simp] theorem writeDap_record : (writeDap s).record = s.record := rfl
@[simp] theorem writeDap_gen : (writeDap s).gen = s.gen := rfl
@[simp] theorem writeDap_const : (writeDap s).const = s.const := rfl
@[simp] theorem writeDap_wstag : (writeDap s).wstag = s.wstag := rfl
@[simp] theorem writeDap_drtag : (writeDap s).drtag = s.drtag := rfl
@[simp] theorem writeDap_lctag : (writeDap s).lctag = s.lctag := rfl
@[simp] theorem writeDap_bankA :
    (writeDap s).bankA = { s.bankA with dapMax := natWord (maxOf (nonzeroBytes.map fun dx => ddtRowMax s.sbox dx)), valid := { s.bankA.valid with dap := true } } := rfl
@[simp] theorem writeDap_bankB : (writeDap s).bankB = s.bankB := rfl
@[simp] theorem writeDap_cmp : (writeDap s).cmp = s.cmp := rfl
@[simp] theorem writeDap_mat : (writeDap s).mat = s.mat := rfl
@[simp] theorem writeDap_exp : (writeDap s).exp = s.exp := rfl
@[simp] theorem writeDap_log : (writeDap s).log = s.log := rfl
@[simp] theorem writeDap_sbox : (writeDap s).sbox = s.sbox := rfl
@[simp] theorem writeDap_ws : (writeDap s).ws = s.ws := rfl
@[simp] theorem writeDap_dr : (writeDap s).dr = s.dr := rfl
@[simp] theorem writeDap_lc : (writeDap s).lc = s.lc := rfl
@[simp] theorem writeDap_sacm : (writeDap s).sacm = s.sacm := rfl
@[simp] theorem writeDap_bsm : (writeDap s).bsm = s.bsm := rfl
@[simp] theorem writeDap_input : (writeDap s).input = s.input := rfl
@[simp] theorem writeDap_responses : (writeDap s).responses = s.responses := rfl

/-! ### writeLap -/

@[simp] theorem writeLap_x : (writeLap s).x = s.x := rfl
@[simp] theorem writeLap_cc : (writeLap s).cc = s.cc := rfl
@[simp] theorem writeLap_status : (writeLap s).status = s.status := rfl
@[simp] theorem writeLap_ctrl : (writeLap s).ctrl = s.ctrl := rfl
@[simp] theorem writeLap_record : (writeLap s).record = s.record := rfl
@[simp] theorem writeLap_gen : (writeLap s).gen = s.gen := rfl
@[simp] theorem writeLap_const : (writeLap s).const = s.const := rfl
@[simp] theorem writeLap_wstag : (writeLap s).wstag = s.wstag := rfl
@[simp] theorem writeLap_drtag : (writeLap s).drtag = s.drtag := rfl
@[simp] theorem writeLap_lctag : (writeLap s).lctag = s.lctag := rfl
@[simp] theorem writeLap_bankA :
    (writeLap s).bankA = { s.bankA with lapMax := natWord (maxOf (nonzeroBytes.map fun b => latColumnMax s.sbox b)), valid := { s.bankA.valid with lap := true } } := rfl
@[simp] theorem writeLap_bankB : (writeLap s).bankB = s.bankB := rfl
@[simp] theorem writeLap_cmp : (writeLap s).cmp = s.cmp := rfl
@[simp] theorem writeLap_mat : (writeLap s).mat = s.mat := rfl
@[simp] theorem writeLap_exp : (writeLap s).exp = s.exp := rfl
@[simp] theorem writeLap_log : (writeLap s).log = s.log := rfl
@[simp] theorem writeLap_sbox : (writeLap s).sbox = s.sbox := rfl
@[simp] theorem writeLap_ws : (writeLap s).ws = s.ws := rfl
@[simp] theorem writeLap_dr : (writeLap s).dr = s.dr := rfl
@[simp] theorem writeLap_lc : (writeLap s).lc = s.lc := rfl
@[simp] theorem writeLap_sacm : (writeLap s).sacm = s.sacm := rfl
@[simp] theorem writeLap_bsm : (writeLap s).bsm = s.bsm := rfl
@[simp] theorem writeLap_input : (writeLap s).input = s.input := rfl
@[simp] theorem writeLap_responses : (writeLap s).responses = s.responses := rfl

/-! ### resetByHost -/

@[simp] theorem State.resetByHost_x : (s.resetByHost).x = State.reset.x := rfl
@[simp] theorem State.resetByHost_cc : (s.resetByHost).cc = State.reset.cc := rfl
@[simp] theorem State.resetByHost_status : (s.resetByHost).status = State.reset.status := rfl
@[simp] theorem State.resetByHost_ctrl : (s.resetByHost).ctrl = State.reset.ctrl := rfl
@[simp] theorem State.resetByHost_record : (s.resetByHost).record = State.reset.record := rfl
@[simp] theorem State.resetByHost_gen : (s.resetByHost).gen = State.reset.gen := rfl
@[simp] theorem State.resetByHost_const : (s.resetByHost).const = State.reset.const := rfl
@[simp] theorem State.resetByHost_wstag : (s.resetByHost).wstag = State.reset.wstag := rfl
@[simp] theorem State.resetByHost_drtag : (s.resetByHost).drtag = State.reset.drtag := rfl
@[simp] theorem State.resetByHost_lctag : (s.resetByHost).lctag = State.reset.lctag := rfl
@[simp] theorem State.resetByHost_bankA : (s.resetByHost).bankA = State.reset.bankA := rfl
@[simp] theorem State.resetByHost_bankB : (s.resetByHost).bankB = State.reset.bankB := rfl
@[simp] theorem State.resetByHost_cmp : (s.resetByHost).cmp = State.reset.cmp := rfl
@[simp] theorem State.resetByHost_mat : (s.resetByHost).mat = State.reset.mat := rfl
@[simp] theorem State.resetByHost_exp : (s.resetByHost).exp = State.reset.exp := rfl
@[simp] theorem State.resetByHost_log : (s.resetByHost).log = State.reset.log := rfl
@[simp] theorem State.resetByHost_sbox : (s.resetByHost).sbox = State.reset.sbox := rfl
@[simp] theorem State.resetByHost_ws : (s.resetByHost).ws = State.reset.ws := rfl
@[simp] theorem State.resetByHost_dr : (s.resetByHost).dr = State.reset.dr := rfl
@[simp] theorem State.resetByHost_lc : (s.resetByHost).lc = State.reset.lc := rfl
@[simp] theorem State.resetByHost_sacm : (s.resetByHost).sacm = State.reset.sacm := rfl
@[simp] theorem State.resetByHost_bsm : (s.resetByHost).bsm = State.reset.bsm := rfl
@[simp] theorem State.resetByHost_input : (s.resetByHost).input = s.input := rfl
@[simp] theorem State.resetByHost_responses : (s.resetByHost).responses = s.responses := rfl

/-! ### sendFirst -/

@[simp] theorem State.sendFirst_x (w : Word) : (s.sendFirst w).x = s.x := rfl
@[simp] theorem State.sendFirst_cc (w : Word) : (s.sendFirst w).cc = s.cc := rfl
@[simp] theorem State.sendFirst_status (w : Word) : (s.sendFirst w).status = s.status := rfl
@[simp] theorem State.sendFirst_ctrl (w : Word) : (s.sendFirst w).ctrl = s.ctrl := rfl
@[simp] theorem State.sendFirst_record (w : Word) : (s.sendFirst w).record = s.record := rfl
@[simp] theorem State.sendFirst_gen (w : Word) : (s.sendFirst w).gen = s.gen := rfl
@[simp] theorem State.sendFirst_const (w : Word) : (s.sendFirst w).const = s.const := rfl
@[simp] theorem State.sendFirst_wstag (w : Word) : (s.sendFirst w).wstag = s.wstag := rfl
@[simp] theorem State.sendFirst_drtag (w : Word) : (s.sendFirst w).drtag = s.drtag := rfl
@[simp] theorem State.sendFirst_lctag (w : Word) : (s.sendFirst w).lctag = s.lctag := rfl
@[simp] theorem State.sendFirst_bankA (w : Word) : (s.sendFirst w).bankA = s.bankA := rfl
@[simp] theorem State.sendFirst_bankB (w : Word) : (s.sendFirst w).bankB = s.bankB := rfl
@[simp] theorem State.sendFirst_cmp (w : Word) : (s.sendFirst w).cmp = s.cmp := rfl
@[simp] theorem State.sendFirst_mat (w : Word) : (s.sendFirst w).mat = s.mat := rfl
@[simp] theorem State.sendFirst_exp (w : Word) : (s.sendFirst w).exp = s.exp := rfl
@[simp] theorem State.sendFirst_log (w : Word) : (s.sendFirst w).log = s.log := rfl
@[simp] theorem State.sendFirst_sbox (w : Word) : (s.sendFirst w).sbox = s.sbox := rfl
@[simp] theorem State.sendFirst_ws (w : Word) : (s.sendFirst w).ws = s.ws := rfl
@[simp] theorem State.sendFirst_dr (w : Word) : (s.sendFirst w).dr = s.dr := rfl
@[simp] theorem State.sendFirst_lc (w : Word) : (s.sendFirst w).lc = s.lc := rfl
@[simp] theorem State.sendFirst_sacm (w : Word) : (s.sendFirst w).sacm = s.sacm := rfl
@[simp] theorem State.sendFirst_bsm (w : Word) : (s.sendFirst w).bsm = s.bsm := rfl
@[simp] theorem State.sendFirst_input (w : Word) : (s.sendFirst w).input = .command w :: s.input := rfl
@[simp] theorem State.sendFirst_responses (w : Word) : (s.sendFirst w).responses = s.responses := rfl

end Sys2Proof.Machine
end

