-- ==== Sys2Proof/Laws/Ops.lean ====
section
/-! SUPPORT. For each shared operation, once, everything it can do: executing a command word, taking an
exception, reading a cell, reading an operand byte. -/

namespace Sys2Proof.Machine

/-! ### Taking an exception (R296, R299) -/

theorem answers_eq (d : Word) (t : State) :
    Spec.answers d t = .next (t.retire { status := 0#8, data := d }) := rfl

theorem refuses_eq (s : State) :
    Spec.refuses s = .next (s.retire { status := blockedCode, data := 0#32 }) := rfl

/-- The machine's taking of an exception is that of the rule. -/
theorem raises_eq (s : State) (e : Exc) (info w : Word) :
    Spec.raises s e.code info w = .next (takeException s e info w) := by
  cases h : s.status.err <;> simp [Spec.raises, takeException, State.retire, h]

/-! ### Executing a command word (R292) -/

/-- In the blocked state a word outside the allowed five is refused. -/
theorem issue_refused {w : Word} {body : State → Effect} {s : State} (he : s.status.err = true)
    (ha : runsWhileBlocked (opField w) = false) : issue w body s = Spec.refuses s := by
  simp [issue, he, ha, refuses_eq]

/-- A word that runs ends as its pseudocode ends. -/
theorem issue_runs {w : Word} {body : State → Effect} {s : State}
    (h : s.status.err = false ∨ runsWhileBlocked (opField w) = true) :
    issue w body s = match body s with
      | .respond d t => Spec.answers d t
      | .raise e info => Spec.raises s e.code info w := by
  have hc : (s.status.err && !runsWhileBlocked (opField w)) = false := by
    rcases h with h | h <;> simp [h]
  rw [issue, hc]
  cases body s with
  | respond d t => rfl
  | raise e info => exact (raises_eq s e info w).symm

/-- A word whose pseudocode responds. -/
theorem issue_respond {w : Word} {body : State → Effect} {s t : State} {d : Word}
    (h : s.status.err = false ∨ runsWhileBlocked (opField w) = true) (hb : body s = .respond d t) :
    issue w body s = Spec.answers d t := by
  rw [issue_runs h, hb]

/-- A word whose pseudocode raises. -/
theorem issue_raise {w : Word} {body : State → Effect} {s : State} {e : Exc} {info : Word}
    (h : s.status.err = false ∨ runsWhileBlocked (opField w) = true) (hb : body s = .raise e info) :
    issue w body s = Spec.raises s e.code info w := by
  rw [issue_runs h, hb]

/-- INVERSION: a command word ends in exactly one of three ways, and always in a next state. -/
theorem issue_cases (w : Word) (body : State → Effect) (s : State) :
    (s.status.err = true ∧ runsWhileBlocked (opField w) = false ∧ issue w body s = Spec.refuses s)
    ∨ ((s.status.err = false ∨ runsWhileBlocked (opField w) = true) ∧
        ((∃ d t, body s = .respond d t ∧ issue w body s = Spec.answers d t)
        ∨ ∃ e info, body s = .raise e info ∧ issue w body s = Spec.raises s e.code info w)) := by
  by_cases h : s.status.err = false ∨ runsWhileBlocked (opField w) = true
  · right
    refine ⟨h, ?_⟩
    cases hb : body s with
    | respond d t => exact .inl ⟨d, t, rfl, issue_respond h hb⟩
    | raise e info => exact .inr ⟨e, info, rfl, issue_raise h hb⟩
  · left
    simp only [not_or, Bool.not_eq_false, Bool.not_eq_true] at h
    exact ⟨h.1, h.2, issue_refused h.1 h.2⟩

/-! ### What an exception changes (R296, R299) -/

theorem takeException_latch {s : State} (h : s.status.err = false) (e : Exc) (info w : Word) :
    takeException s e info w = State.retire
      { s with
        status := { s.status with err := true }
        record := { ecause := e.code, einfo := info, ecmd := w, ecc := s.cc } }
      { status := e.code, data := info } := by
  simp [takeException, h]

theorem takeException_keep {s : State} (h : s.status.err = true) (e : Exc) (info w : Word) :
    takeException s e info w = s.retire { status := e.code, data := info } := by
  simp [takeException, h]

theorem Exc.code_ne_zero (e : Exc) : e.code ≠ 0#8 := by cases e <;> decide

theorem Exc.code_le_nine (e : Exc) : e.code ≤ 9#8 := by cases e <;> decide

/-- What an exception leaves: the state but for `ERR`, the record, `CC` and the response. -/
theorem takeException_frame (s : State) (e : Exc) (info w : Word) :
    takeException s e info w =
      { s with
        status := { s.status with err := true }
        record := (takeException s e info w).record
        cc := s.cc + 1#32
        responses := s.responses ++ [{ status := e.code, data := info }] } := by
  cases h : s.status.err with
  | false => simp [takeException_latch h, State.retire]
  | true =>
    rw [takeException_keep h]
    have : s.status = { s.status with err := true } := by rw [← h]
    simp [State.retire, ← this]

/-! ### Encodings as numbers (R112, R113) -/

theorem formatX_eq_wordX (op : BitVec 8) (rd rs1 rs2 : RegNum) (sel : Sel) :
    formatX op (regField rd) (regField rs1) (regField rs2) sel
      = Spec.wordX op.toNat rd.val rs1.val rs2.val sel.toNat := by
  apply BitVec.eq_of_toNat_eq
  rw [formatX_toNat, Spec.wordX]
  have := op.isLt; have := sel.isLt
  simp [regField]
  omega

theorem formatI_eq_wordI (op : BitVec 8) (rd : RegNum) (imm : BitVec 16) :
    formatI op (regField rd) imm = Spec.wordI op.toNat rd.val imm.toNat := by
  apply BitVec.eq_of_toNat_eq
  rw [formatI_toNat, Spec.wordI]
  have := op.isLt; have := imm.isLt
  simp [regField]
  omega

/-! ### Operands (R33) -/

theorem asByte_of_le {v : Word} (h : v ≤ 255#32) : asByte v = some (v.setWidth 8) := if_pos h

theorem asByte_of_gt {v : Word} (h : 255#32 < v) : asByte v = none :=
  if_neg (BitVec.not_le.mpr h)

/-- A whole register up to 255 is its low byte. -/
theorem asByte_le {v : Word} (h : v.toNat ≤ 255) : asByte v = some (v.setWidth 8) :=
  asByte_of_le (by rw [BitVec.le_def]; exact h)

/-- A whole register above 255 is no byte. -/
theorem asByte_gt {v : Word} (h : 255 < v.toNat) : asByte v = none :=
  asByte_of_gt (by rw [BitVec.lt_def]; exact h)

/-- Reading a whole register as a byte: exactly the values up to 255 are accepted, and none is changed. -/
theorem asByte_eq_some {v : Word} {b : Byte} : asByte v = some b ↔ v = zext32 b := by
  constructor
  · intro h
    simp only [asByte] at h
    split at h
    · next hle =>
      injection h with h
      subst h
      apply BitVec.eq_of_toNat_eq
      have : v.toNat ≤ 255 := by simpa [BitVec.le_def] using hle
      simp [zext32]
      omega
    · cases h
  · rintro rfl
    have hb := b.isLt
    have hle : zext32 b ≤ 255#32 := by
      rw [BitVec.le_def]; simp [zext32]; omega
    rw [asByte_of_le hle]
    congr 1
    apply BitVec.eq_of_toNat_eq
    simp [zext32]

/-! ### Table spaces (R82, R86) -/

/-- A cell can be read exactly below the size of its space. -/
theorem memRead_eq_none (s : State) (sp : Space) (idx : Nat) :
    s.memRead sp idx = none ↔ sp.size ≤ idx := by
  cases sp <;>
    simp only [State.memRead, Space.size, Option.map_eq_none_iff, Cells.get?_eq_none]

theorem memRead_isSome {s : State} {sp : Space} {idx : Nat} (h : idx < sp.size) :
    ∃ c, s.memRead sp idx = some c := by
  cases hc : s.memRead sp idx with
  | some c => exact ⟨c, rfl⟩
  | none => exact absurd ((memRead_eq_none s sp idx).mp hc) (by omega)

/-! ### General registers (R31) -/

@[simp] theorem State.reg_setReg_same (s : State) (r : RegNum) (v : Word) : (s.setReg r v).reg r = v := by
  simp [State.reg, State.setReg]

theorem State.reg_setReg_ne (s : State) {r q : RegNum} (v : Word) (h : q ≠ r) :
    (s.setReg r v).reg q = s.reg q := by
  simp [State.reg, State.setReg, Cells.get_set_ne _ _ h]

end Sys2Proof.Machine
end

