-- ==== Sys2Proof/Laws/Effects.lean ====
section
/-! SUPPORT. One inversion lemma per command: if its pseudocode responds with `d` in state `t`, then its
checks held and `d` and `t` are these. Every frame and every invariant is derived from them; the machine's
definitions are unfolded here once. -/

namespace Sys2Proof.Machine

variable {s t : State} {d : Word}

theorem respond_inj {d e : Word} {t u : State} (h : Effect.respond d t = .respond e u) : e = d ∧ u = t := by
  rw [Effect.respond.injEq] at h
  exact ⟨h.1.symm, h.2.symm⟩

theorem respondInto_respond {rd : RegNum} {v : Word} (h : respondInto s rd v = .respond d t) :
    d = v ∧ t = s.setReg rd v := respond_inj h

theorem needField_respond {rest : State → Effect} (h : needField s rest = .respond d t) :
    s.status.ftv = true ∧ rest s = .respond d t := by
  unfold needField at h
  split at h
  · next hf => exact ⟨hf, h⟩
  · cases h

theorem needSbox_respond {rest : State → Effect} (h : needSbox s rest = .respond d t) :
    s.status.sbv = true ∧ rest s = .respond d t := by
  unfold needSbox at h
  split at h
  · next hf => exact ⟨hf, h⟩
  · cases h

/-! ### System -/

theorem nopEffect_respond (h : nopEffect s = .respond d t) : d = 0#32 ∧ t = s := respond_inj h

theorem liEffect_respond {rd : RegNum} {imm : BitVec 16} (h : liEffect rd imm s = .respond d t) :
    d = imm.setWidth 32 ∧ t = s.setReg rd (imm.setWidth 32) := respondInto_respond h

theorem getEffect_respond {rs1 : RegNum} (h : getEffect rs1 s = .respond d t) :
    d = s.reg rs1 ∧ t = s := respond_inj h

theorem csrrEffect_respond {rd : RegNum} {csr : Sel} (h : csrrEffect rd csr s = .respond d t) :
    ∃ c, Csr.ofNumber csr = some c ∧ d = s.readCsr c ∧ t = s.setReg rd (s.readCsr c) := by
  unfold csrrEffect at h
  split at h
  · cases h
  · next c hc => exact ⟨c, hc, respondInto_respond h⟩

theorem csrwEffect_respond {csr : Sel} {rs1 : RegNum} (h : csrwEffect csr rs1 s = .respond d t) :
    csr = 0x002#12 ∧ d = ctrlWord ((s.reg rs1).setWidth 3)
      ∧ t = { s with ctrl := (s.reg rs1).setWidth 3 } := by
  unfold csrwEffect at h
  split at h
  · next hc => exact ⟨hc, respond_inj h⟩
  · cases h

theorem eclrEffect_respond (h : eclrEffect s = .respond d t) : d = 0#32 ∧ t = s.clearException :=
  respond_inj h

theorem ldtEffect_respond {rd : RegNum} {space : Sel} {rs1 : RegNum}
    (h : ldtEffect rd space rs1 s = .respond d t) :
    ∃ sp c, Space.ofNumber space = some sp ∧ s.memRead sp (s.reg rs1).toNat = some c
      ∧ d = (if sp = .ws then sext32 c else natWord c.toNat) ∧ t = s.setReg rd d := by
  unfold ldtEffect at h
  split at h
  · cases h
  · next sp hsp =>
    split at h
    · cases h
    · next c hc =>
      obtain ⟨rfl, rfl⟩ := respondInto_respond h
      exact ⟨sp, c, hsp, hc, rfl, rfl⟩

theorem stsEffect_respond {rs1 rs2 : RegNum} (h : stsEffect rs1 rs2 s = .respond d t) :
    ∃ idx v, asByte (s.reg rs1) = some idx ∧ asByte (s.reg rs2) = some v ∧ d = 0#32
      ∧ t = (s.writeSbox idx v).sboxChanged false := by
  unfold stsEffect at h
  split at h
  · cases h
  · next idx hi =>
    split at h
    · cases h
    · next v hv => exact ⟨idx, v, hi, hv, respond_inj h⟩

/-! ### Field Engine -/

theorem gfaddEffect_respond {rd rs1 rs2 : RegNum} (h : gfaddEffect rd rs1 rs2 s = .respond d t) :
    d = zext32 (s.regByte rs1 ^^^ s.regByte rs2) ∧ t = s.setReg rd d := by
  obtain ⟨rfl, rfl⟩ := respondInto_respond h
  exact ⟨rfl, rfl⟩

theorem gfmulEffect_respond {rd rs1 rs2 : RegNum} (h : gfmulEffect rd rs1 rs2 s = .respond d t) :
    s.status.ftv = true ∧ d = zext32 (tmul s.exp s.log (s.regByte rs1) (s.regByte rs2))
      ∧ t = s.setReg rd d := by
  obtain ⟨hf, h⟩ := needField_respond h
  obtain ⟨rfl, rfl⟩ := respondInto_respond h
  exact ⟨hf, rfl, rfl⟩

theorem gfinvEffect_respond {rd rs1 : RegNum} (h : gfinvEffect rd rs1 s = .respond d t) :
    s.status.ftv = true ∧ s.regByte rs1 ≠ 0#8 ∧ d = zext32 (tinv s.exp s.log (s.regByte rs1))
      ∧ t = s.setReg rd d := by
  obtain ⟨hf, h⟩ := needField_respond h
  split at h
  · cases h
  · next hz =>
    obtain ⟨rfl, rfl⟩ := respondInto_respond h
    exact ⟨hf, hz, rfl, rfl⟩

theorem gfinvzEffect_respond {rd rs1 : RegNum} (h : gfinvzEffect rd rs1 s = .respond d t) :
    s.status.ftv = true ∧ d = zext32 (inv0 s.exp s.log (s.regByte rs1)) ∧ t = s.setReg rd d := by
  obtain ⟨hf, h⟩ := needField_respond h
  obtain ⟨rfl, rfl⟩ := respondInto_respond h
  exact ⟨hf, rfl, rfl⟩

theorem fbuildEffect_respond {rs1 : RegNum} (h : fbuildEffect rs1 s = .respond d t) :
    ∃ g, asByte (s.reg rs1) = some g ∧ isPrimitive g = true ∧ d = 0#32
      ∧ t = { s with
          exp := expTab g, log := logTab g, gen := g, status := { s.status with ftv := true } } := by
  unfold fbuildEffect at h
  split at h
  · cases h
  · next g hg =>
    split at h
    · next hp => exact ⟨g, hg, hp, respond_inj h⟩
    · cases h

/-! ### S-box Builder -/

theorem mrowEffect_respond {row : Sel} {rs1 : RegNum} (h : mrowEffect row rs1 s = .respond d t) :
    ∃ (hr : row.toNat < 8) (v : Byte), asByte (s.reg rs1) = some v ∧ d = 0#32
      ∧ t = s.writeMat ⟨row.toNat, hr⟩ v := by
  unfold mrowEffect at h
  split at h
  · next hr =>
    split at h
    · cases h
    · next v hv => exact ⟨hr, v, hv, respond_inj h⟩
  · cases h

theorem mconstEffect_respond {rs1 : RegNum} (h : mconstEffect rs1 s = .respond d t) :
    ∃ v, asByte (s.reg rs1) = some v ∧ d = 0#32 ∧ t = { s with const := v } := by
  unfold mconstEffect at h
  split at h
  · cases h
  · next v hv => exact ⟨v, hv, respond_inj h⟩

theorem matvEffect_respond {rd rs1 : RegNum} (h : matvEffect rd rs1 s = .respond d t) :
    d = zext32 (matv s.mat s.ctrl (s.regByte rs1)) ∧ t = s.setReg rd d := by
  obtain ⟨rfl, rfl⟩ := respondInto_respond h
  exact ⟨rfl, rfl⟩

theorem affEffect_respond {rd rs1 : RegNum} (h : affEffect rd rs1 s = .respond d t) :
    d = zext32 (affine s.mat s.const s.ctrl (s.regByte rs1)) ∧ t = s.setReg rd d := by
  obtain ⟨rfl, rfl⟩ := respondInto_respond h
  exact ⟨rfl, rfl⟩

theorem sbuildEffect_respond (h : sbuildEffect s = .respond d t) :
    s.status.ftv = true ∧ isPermutation (byteTable (sbx s)) = true ∧ d = 0#32
      ∧ t = { s.sboxChanged true with sbox := byteTable (sbx s) } := by
  obtain ⟨hf, h⟩ := needField_respond h
  dsimp only at h
  split at h
  · next hp => exact ⟨hf, hp, respond_inj h⟩
  · cases h

theorem sbchkEffect_respond (h : sbchkEffect s = .respond d t) :
    isPermutation s.sbox = true ∧ d = 0#32 ∧ t = { s with status := { s.status with sbv := true } } := by
  unfold sbchkEffect at h
  split at h
  · next hp => exact ⟨hp, respond_inj h⟩
  · cases h

/-! ### Analyzers -/

theorem whtEffect_respond {rd rs1 : RegNum} (h : whtEffect rd rs1 s = .respond d t) :
    s.status.sbv = true ∧ d = natWord (nl s.sbox (s.regByte rs1))
      ∧ t = State.setReg { s with
          ws := byteTable (walsh s.sbox (s.regByte rs1))
          wstag := s.regByte rs1
          status := { s.status with wsv := true } } rd d := by
  obtain ⟨hs, h⟩ := needSbox_respond h
  obtain ⟨hd, ht⟩ := respondInto_respond h
  exact ⟨hs, hd, by rw [ht, hd]⟩

theorem nlsetEffect_respond (h : nlsetEffect s = .respond d t) :
    s.status.sbv = true ∧ d = (writeNl s).bankA.nlMin ∧ t = writeNl s := by
  obtain ⟨hs, h⟩ := needSbox_respond h
  exact ⟨hs, respond_inj h⟩

theorem bicnlEffect_respond (h : bicnlEffect s = .respond d t) :
    s.status.sbv = true ∧ d = (writeBicnl s).bankA.bnMin ∧ t = writeBicnl s := by
  obtain ⟨hs, h⟩ := needSbox_respond h
  exact ⟨hs, respond_inj h⟩

theorem sacEffect_respond (h : sacEffect s = .respond d t) :
    s.status.sbv = true ∧ d = (writeSac s).bankA.sacSum ∧ t = writeSac s := by
  obtain ⟨hs, h⟩ := needSbox_respond h
  exact ⟨hs, respond_inj h⟩

theorem bicsacEffect_respond (h : bicsacEffect s = .respond d t) :
    s.status.sbv = true ∧ d = (writeBicsac s).bankA.bsDev ∧ t = writeBicsac s := by
  obtain ⟨hs, h⟩ := needSbox_respond h
  exact ⟨hs, respond_inj h⟩

theorem ddtrEffect_respond {rd rs1 : RegNum} (h : ddtrEffect rd rs1 s = .respond d t) :
    s.status.sbv = true ∧ d = natWord (ddtRowMax s.sbox (s.regByte rs1))
      ∧ t = State.setReg { s with
          dr := byteTable (ddt s.sbox (s.regByte rs1))
          drtag := s.regByte rs1
          status := { s.status with drv := true } } rd d := by
  obtain ⟨hs, h⟩ := needSbox_respond h
  obtain ⟨hd, ht⟩ := respondInto_respond h
  exact ⟨hs, hd, by rw [ht, hd]⟩

theorem dapEffect_respond (h : dapEffect s = .respond d t) :
    s.status.sbv = true ∧ d = (writeDap s).bankA.dapMax ∧ t = writeDap s := by
  obtain ⟨hs, h⟩ := needSbox_respond h
  exact ⟨hs, respond_inj h⟩

theorem latcEffect_respond {rd rs1 : RegNum} (h : latcEffect rd rs1 s = .respond d t) :
    s.status.sbv = true ∧ d = natWord (latColumnMax s.sbox (s.regByte rs1))
      ∧ t = State.setReg { s with
          lc := byteTable fun a => lat s.sbox a (s.regByte rs1)
          lctag := s.regByte rs1
          status := { s.status with lcv := true } } rd d := by
  obtain ⟨hs, h⟩ := needSbox_respond h
  obtain ⟨hd, ht⟩ := respondInto_respond h
  exact ⟨hs, hd, by rw [ht, hd]⟩

theorem lapEffect_respond (h : lapEffect s = .respond d t) :
    s.status.sbv = true ∧ d = (writeLap s).bankA.lapMax ∧ t = writeLap s := by
  obtain ⟨hs, h⟩ := needSbox_respond h
  exact ⟨hs, respond_inj h⟩

/-- The state writes of `ANALYZE` (R243). -/
abbrev writeReport (s : State) : State := writeDap (writeLap (writeBicsac (writeSac (writeBicnl (writeNl s)))))

theorem analyzeEffect_respond (h : analyzeEffect s = .respond d t) :
    s.status.sbv = true ∧ d = (writeReport s).bankA.valid.word ∧ t = writeReport s := by
  obtain ⟨hs, h⟩ := needSbox_respond h
  exact ⟨hs, respond_inj h⟩

theorem snapEffect_respond (h : snapEffect s = .respond d t) :
    d = s.bankA.valid.word ∧ t = { s with bankB := s.bankA } := respond_inj h

theorem cmpEffect_respond {rd : RegNum} {metric : Sel} (h : cmpEffect rd metric s = .respond d t) :
    ∃ m, Metric.ofNumber metric = some m ∧ m.comparable s.bankA s.bankB = true
      ∧ d = (winner (m.key (m.value s.bankA)) (m.key (m.value s.bankB))).setWidth 32
      ∧ t = State.setReg { s with cmp :=
          { win := winner (m.key (m.value s.bankA)) (m.key (m.value s.bankB))
            a := m.value s.bankA
            b := m.value s.bankB
            delta := sext32 (((m.value s.bankA).toNat : Int) - ((m.value s.bankB).toNat : Int)) } } rd d := by
  unfold cmpEffect at h
  split at h
  · cases h
  · next m hm =>
    split at h
    · next hc =>
      obtain ⟨hd, ht⟩ := respondInto_respond h
      exact ⟨m, hm, hc, hd, by rw [ht, hd]⟩
    · cases h

end Sys2Proof.Machine
end

