-- ==== Sys2Proof/Laws/Exec.lean ====
section
/-! SUPPORT. Executing any command: it is `issue` of its word and its pseudocode. What every command's
pseudocode leaves alone (`CC`, the responses, the host's input). Inversion of `exec`, `runWord` and
`step`. -/

namespace Sys2Proof.Machine

/-- The pseudocode of a command. -/
def effect : Instr → State → Effect
  | .nop => nopEffect
  | .li rd imm => liEffect rd imm
  | .get rs1 => getEffect rs1
  | .csrr rd csr => csrrEffect rd csr
  | .csrw csr rs1 => csrwEffect csr rs1
  | .eclr => eclrEffect
  | .ldt rd space rs1 => ldtEffect rd space rs1
  | .sts rs1 rs2 => stsEffect rs1 rs2
  | .gfadd rd rs1 rs2 => gfaddEffect rd rs1 rs2
  | .gfmul rd rs1 rs2 => gfmulEffect rd rs1 rs2
  | .gfinv rd rs1 => gfinvEffect rd rs1
  | .gfinvz rd rs1 => gfinvzEffect rd rs1
  | .fbuild rs1 => fbuildEffect rs1
  | .mrow row rs1 => mrowEffect row rs1
  | .mconst rs1 => mconstEffect rs1
  | .matv rd rs1 => matvEffect rd rs1
  | .aff rd rs1 => affEffect rd rs1
  | .sbuild => sbuildEffect
  | .sbchk => sbchkEffect
  | .wht rd rs1 => whtEffect rd rs1
  | .nlset => nlsetEffect
  | .bicnl => bicnlEffect
  | .sac => sacEffect
  | .bicsac => bicsacEffect
  | .ddtr rd rs1 => ddtrEffect rd rs1
  | .dap => dapEffect
  | .latc rd rs1 => latcEffect rd rs1
  | .lap => lapEffect
  | .analyze => analyzeEffect
  | .snap => snapEffect
  | .cmp rd metric => cmpEffect rd metric

/-- Every command is executed as one command word. -/
theorem exec_eq_issue (i : Instr) (s : State) : exec i s = issue (encode i) (effect i) s := by
  cases i <;> rfl

/-- The commands that run in the blocked state (R298). -/
theorem runsWhileBlocked_encode (i : Instr) :
    runsWhileBlocked (opField (encode i)) = true ↔
      i = .nop ∨ (∃ r, i = .get r) ∨ (∃ r c, i = .csrr r c) ∨ i = .eclr ∨ ∃ r p q, i = .ldt r p q := by
  cases i <;> simp [encode, runsWhileBlocked]

/-- A command that the blocked state refuses. -/
theorem exec_refused {i : Instr} {s : State} (he : s.status.err = true)
    (ha : runsWhileBlocked (opField (encode i)) = false) : exec i s = Spec.refuses s := by
  rw [exec_eq_issue]; exact issue_refused he ha

/-- A command that runs and responds. -/
theorem exec_respond {i : Instr} {s t : State} {d : Word}
    (h : s.status.err = false ∨ runsWhileBlocked (opField (encode i)) = true)
    (hb : effect i s = .respond d t) : exec i s = Spec.answers d t := by
  rw [exec_eq_issue]; exact issue_respond h hb

/-- A command that runs and raises. -/
theorem exec_raise {i : Instr} {s : State} {e : Exc} {info : Word}
    (h : s.status.err = false ∨ runsWhileBlocked (opField (encode i)) = true)
    (hb : effect i s = .raise e info) : exec i s = Spec.raises s e.code info (encode i) := by
  rw [exec_eq_issue]; exact issue_raise h hb

/-- INVERSION of `exec`: refused, ended normally, or raised. -/
theorem exec_cases (i : Instr) (s : State) :
    (s.status.err = true ∧ runsWhileBlocked (opField (encode i)) = false ∧ exec i s = Spec.refuses s)
    ∨ ((s.status.err = false ∨ runsWhileBlocked (opField (encode i)) = true) ∧
        ((∃ d t, effect i s = .respond d t ∧ exec i s = Spec.answers d t)
        ∨ ∃ e info, effect i s = .raise e info ∧ exec i s = Spec.raises s e.code info (encode i))) := by
  rw [exec_eq_issue]
  exact issue_cases _ _ _

/-- No pseudocode touches `CC`, the responses or the host's input (R13, R40). -/
theorem effect_respond_frame {i : Instr} {s t : State} {d : Word} (h : effect i s = .respond d t) :
    t.cc = s.cc ∧ t.responses = s.responses ∧ t.input = s.input := by
  cases i with
  | nop => obtain ⟨-, rfl⟩ := nopEffect_respond h; exact ⟨rfl, rfl, rfl⟩
  | li _ _ => obtain ⟨-, rfl⟩ := liEffect_respond h; exact ⟨rfl, rfl, rfl⟩
  | get _ => obtain ⟨-, rfl⟩ := getEffect_respond h; exact ⟨rfl, rfl, rfl⟩
  | csrr _ _ => obtain ⟨-, -, -, rfl⟩ := csrrEffect_respond h; exact ⟨rfl, rfl, rfl⟩
  | csrw _ _ => obtain ⟨-, -, rfl⟩ := csrwEffect_respond h; exact ⟨rfl, rfl, rfl⟩
  | eclr => obtain ⟨-, rfl⟩ := eclrEffect_respond h; exact ⟨rfl, rfl, rfl⟩
  | ldt _ _ _ => obtain ⟨-, -, -, -, -, rfl⟩ := ldtEffect_respond h; exact ⟨rfl, rfl, rfl⟩
  | sts _ _ => obtain ⟨-, -, -, -, -, rfl⟩ := stsEffect_respond h; exact ⟨rfl, rfl, rfl⟩
  | gfadd _ _ _ => obtain ⟨-, rfl⟩ := gfaddEffect_respond h; exact ⟨rfl, rfl, rfl⟩
  | gfmul _ _ _ => obtain ⟨-, -, rfl⟩ := gfmulEffect_respond h; exact ⟨rfl, rfl, rfl⟩
  | gfinv _ _ => obtain ⟨-, -, -, rfl⟩ := gfinvEffect_respond h; exact ⟨rfl, rfl, rfl⟩
  | gfinvz _ _ => obtain ⟨-, -, rfl⟩ := gfinvzEffect_respond h; exact ⟨rfl, rfl, rfl⟩
  | fbuild _ => obtain ⟨-, -, -, -, rfl⟩ := fbuildEffect_respond h; exact ⟨rfl, rfl, rfl⟩
  | mrow _ _ => obtain ⟨-, -, -, -, rfl⟩ := mrowEffect_respond h; exact ⟨rfl, rfl, rfl⟩
  | mconst _ => obtain ⟨-, -, -, rfl⟩ := mconstEffect_respond h; exact ⟨rfl, rfl, rfl⟩
  | matv _ _ => obtain ⟨-, rfl⟩ := matvEffect_respond h; exact ⟨rfl, rfl, rfl⟩
  | aff _ _ => obtain ⟨-, rfl⟩ := affEffect_respond h; exact ⟨rfl, rfl, rfl⟩
  | sbuild => obtain ⟨-, -, -, rfl⟩ := sbuildEffect_respond h; exact ⟨rfl, rfl, rfl⟩
  | sbchk => obtain ⟨-, -, rfl⟩ := sbchkEffect_respond h; exact ⟨rfl, rfl, rfl⟩
  | wht _ _ => obtain ⟨-, -, rfl⟩ := whtEffect_respond h; exact ⟨rfl, rfl, rfl⟩
  | nlset => obtain ⟨-, -, rfl⟩ := nlsetEffect_respond h; exact ⟨rfl, rfl, rfl⟩
  | bicnl => obtain ⟨-, -, rfl⟩ := bicnlEffect_respond h; exact ⟨rfl, rfl, rfl⟩
  | sac => obtain ⟨-, -, rfl⟩ := sacEffect_respond h; exact ⟨rfl, rfl, rfl⟩
  | bicsac => obtain ⟨-, -, rfl⟩ := bicsacEffect_respond h; exact ⟨rfl, rfl, rfl⟩
  | ddtr _ _ => obtain ⟨-, -, rfl⟩ := ddtrEffect_respond h; exact ⟨rfl, rfl, rfl⟩
  | dap => obtain ⟨-, -, rfl⟩ := dapEffect_respond h; exact ⟨rfl, rfl, rfl⟩
  | latc _ _ => obtain ⟨-, -, rfl⟩ := latcEffect_respond h; exact ⟨rfl, rfl, rfl⟩
  | lap => obtain ⟨-, -, rfl⟩ := lapEffect_respond h; exact ⟨rfl, rfl, rfl⟩
  | analyze => obtain ⟨-, -, rfl⟩ := analyzeEffect_respond h; simp [writeReport]
  | snap => obtain ⟨-, rfl⟩ := snapEffect_respond h; exact ⟨rfl, rfl, rfl⟩
  | cmp _ _ => obtain ⟨-, -, -, -, rfl⟩ := cmpEffect_respond h; exact ⟨rfl, rfl, rfl⟩

/-- A word of the command stream always ends in a next state, with one response more and `CC` one on. -/
theorem issue_next (w : Word) (body : State → Effect) (s : State)
    (hb : ∀ d t, body s = .respond d t →
      t.cc = s.cc ∧ t.responses = s.responses ∧ t.input = s.input) :
    ∃ t r, issue w body s = .next t ∧ t.cc = s.cc + 1#32 ∧ t.responses = s.responses ++ [r]
      ∧ t.input = s.input := by
  rcases issue_cases w body s with ⟨-, -, h⟩ | ⟨-, ⟨d, t, ht, h⟩ | ⟨e, info, -, h⟩⟩
  · refine ⟨s.retire { status := blockedCode, data := 0#32 },
      { status := blockedCode, data := 0#32 }, ?_, ?_, ?_, ?_⟩
    · rw [h, refuses_eq]
    · rw [State.retire_cc]
    · rw [State.retire_responses]
    · rw [State.retire_input]
  · obtain ⟨h1, h2, h3⟩ := hb d t ht
    refine ⟨t.retire { status := 0#8, data := d }, { status := 0#8, data := d }, ?_, ?_, ?_, ?_⟩
    · rw [h, answers_eq]
    · rw [State.retire_cc, h1]
    · rw [State.retire_responses, h2]
    · rw [State.retire_input, h3]
  · refine ⟨takeException s e info w, { status := e.code, data := info }, ?_, ?_, ?_, ?_⟩
    · rw [h, raises_eq]
    all_goals rw [takeException_frame]

theorem exec_next (i : Instr) (s : State) :
    ∃ t r, exec i s = .next t ∧ t.cc = s.cc + 1#32 ∧ t.responses = s.responses ++ [r]
      ∧ t.input = s.input := by
  rw [exec_eq_issue]
  exact issue_next _ _ _ fun _ _ h => effect_respond_frame h

theorem runWord_next (w : Word) (s : State) :
    ∃ t r, runWord w s = .next t ∧ t.cc = s.cc + 1#32 ∧ t.responses = s.responses ++ [r]
      ∧ t.input = s.input := by
  unfold runWord
  split
  · exact exec_next _ _
  · refine issue_next _ _ _ ?_
    intro d t h
    simp at h

/-! ### The step -/

theorem step_idle {s : State} (h : s.input = []) : step s = .next s := by
  simp [step, sequence, h]

theorem step_command {s : State} {w : Word} {rest : List HostInput} (h : s.input = .command w :: rest) :
    step s = runWord w { s with input := rest } := by
  simp [step, sequence, h]

theorem step_reset {s : State} {rest : List HostInput} (h : s.input = .reset :: rest) :
    step s = .next (State.resetByHost { s with input := rest }) := by
  simp [step, sequence, h]

theorem runWord_ok {w : Word} {i : Instr} (h : decode w = .ok i) (s : State) : runWord w s = exec i s := by
  simp [runWord, h]

theorem runWord_error {w : Word} {e : DecodeError} (h : decode w = .error e) (s : State) :
    runWord w s = issueIllegal w s := by
  simp [runWord, h]

end Sys2Proof.Machine
end

