-- ==== Sys2Proof/Laws/Field.lean ====
section
/-! SUPPORT. The list of powers the Field Engine computes, the check for a primitive element and the tables
(40_field.md R142, R143). -/

namespace Sys2Proof.Machine

/-- Cell `i` of the powers from `ppow(g, k)` on is `ppow(g, k + i)`. -/
theorem getElem_powersFrom (g : Byte) (k n i : Nat) (h : i < (powersFrom g (ppow g k) n).length) :
    (powersFrom g (ppow g k) n)[i] = ppow g (k + i) := by
  induction n generalizing k i with
  | zero => simp [powersFrom] at h
  | succ n ih =>
    cases i with
    | zero => rfl
    | succ i =>
      have hs : pmul (ppow g k) g = ppow g (k + 1) := rfl
      simp only [powersFrom, List.getElem_cons_succ, hs]
      rw [ih (k + 1) i (by simpa [powersFrom, hs] using h)]
      congr 1
      omega

theorem length_powers (g : Byte) : (powers g).length = 256 := length_powersFrom g 1#8 256

/-- Cell `i` of the list of powers is `ppow(g, i)`. -/
theorem getElem_powers (g : Byte) (i : Nat) (h : i < (powers g).length) : (powers g)[i] = ppow g i := by
  have := getElem_powersFrom g 0 256 i h
  rwa [Nat.zero_add] at this

/-- `EXP[i] = ppow(g, i)` (R143). -/
theorem cellAt_expTab (g : Byte) {i : Nat} (h : i < 256) : cellAt (expTab g) (BitVec.ofNat 8 i) = ppow g i := by
  have hi : (byteIndex (BitVec.ofNat 8 i)).val = i := by simp; omega
  simp only [cellAt, expTab, Cells.get, hi]
  exact getElem_powers g i (by rw [length_powers]; exact h)

/-- The check the machine makes for a primitive element is the one of the rule (R142). -/
theorem isPrimitive_iff (g : Byte) : isPrimitive g = true ↔ Spec.Primitive g := by
  have hlen : (powersFrom g (ppow g 1) 255).length = 255 := length_powersFrom _ _ _
  have key : order g = some 255 ↔
      (powersFrom g (ppow g 1) 255).findIdx? (fun e => e == 1#8) = some 254 := by
    have e : order g = ((powersFrom g (ppow g 1) 255).findIdx? fun e => e == 1#8).map (· + 1) := rfl
    rw [e, Option.map_eq_some_iff]
    constructor
    · rintro ⟨a, ha, h⟩
      rwa [show a = 254 by omega] at ha
    · intro h
      exact ⟨254, h, rfl⟩
  rw [isPrimitive, beq_iff_eq, key, List.findIdx?_eq_some_iff_getElem, Spec.Primitive]
  constructor
  · rintro ⟨h, h1, h2⟩
    rw [getElem_powersFrom] at h1
    refine ⟨by simpa using h1, fun k hk hk' => ?_⟩
    have := h2 (k - 1) (by omega)
    rw [getElem_powersFrom, show 1 + (k - 1) = k by omega] at this
    simpa using this
  · rintro ⟨h1, h2⟩
    refine ⟨by omega, ?_, fun j hj => ?_⟩
    · rw [getElem_powersFrom]; simpa using h1
    · rw [getElem_powersFrom]; simpa using h2 (1 + j) (by omega) (by omega)

/-- `LOG[ppow(g, i)] = i` when the 255 powers are distinct (R143). -/
theorem cellAt_logTab (g : Byte) (hn : ((powers g).take 255).Nodup) {i : Nat} (h : i < 255) :
    cellAt (logTab g) (ppow g i) = BitVec.ofNat 8 i := by
  have hl : ((powers g).take 255).length = 255 := by simp [length_powers]
  have hg (j : Nat) (hj : j < ((powers g).take 255).length) : ((powers g).take 255)[j] = ppow g j := by
    rw [List.getElem_take, getElem_powers]
  have hf : ((powers g).take 255).findIdx? (fun e => e == ppow g i) = some i := by
    rw [List.findIdx?_eq_some_iff_getElem]
    refine ⟨by omega, by rw [hg]; simp, fun j hj => ?_⟩
    rw [beq_iff_eq]
    intro e
    have := (hn.getElem_inj_iff (i := j) (j := i) (hi := by omega) (hj := by omega)).mp
      (by rw [hg i]; exact e)
    omega
  simp only [logTab, cellAt_byteTable, hf, Option.getD_some]

/-- `LOG[0] = 0` when 0 is not a power (R143). -/
theorem cellAt_logTab_zero (g : Byte) (h0 : 0#8 ∉ (powers g).take 255) : cellAt (logTab g) 0#8 = 0#8 := by
  have hf : ((powers g).take 255).findIdx? (fun e => e == 0#8) = none := by
    rw [List.findIdx?_eq_none_iff]
    intro e he
    rw [beq_eq_false_iff_ne]
    rintro rfl
    exact h0 he
  simp only [logTab, cellAt_byteTable, hf, Option.getD_none]

/-- The two tables of an element whose 255 powers are distinct and not 0 (R143). -/
theorem isTables_of_nodup (g : Byte) (hn : ((powers g).take 255).Nodup) (h0 : 0#8 ∉ (powers g).take 255) :
    Spec.IsTables g (cellAt (expTab g)) (cellAt (logTab g)) :=
  ⟨fun _ h => cellAt_expTab g h, fun _ h => cellAt_logTab g hn h, cellAt_logTab_zero g h0⟩

end Sys2Proof.Machine
end

