-- ==== Sys2Proof/Laws/PerInstr.lean ====
section
/-! SUPPORT. The family `EncodingMatch`: the word of every command matches the row of the command table with
the command's mnemonic, and no other row (30_encoding.md R115). One lemma per constructor. -/

namespace Sys2Proof

/-- Two words with the same fields are equal. -/
theorem word_ext {v w : Word} (ho : opField v = opField w) (hd : rdField v = rdField w)
    (h1 : rs1Field v = rs1Field w) (h2 : rs2Field v = rs2Field w) (hs : selField v = selField w) : v = w := by
  rw [← formatX_fields v, ← formatX_fields w, ho, hd, h1, h2, hs]

/-- The fields of a masked word are the masked fields. -/
theorem fields_and (v w : Word) :
    opField (v &&& w) = opField v &&& opField w ∧ rdField (v &&& w) = rdField v &&& rdField w
      ∧ rs1Field (v &&& w) = rs1Field v &&& rs1Field w ∧ rs2Field (v &&& w) = rs2Field v &&& rs2Field w
      ∧ selField (v &&& w) = selField v &&& selField w :=
  ⟨BitVec.extractLsb'_and, BitVec.extractLsb'_and, BitVec.extractLsb'_and, BitVec.extractLsb'_and,
    BitVec.extractLsb'_and⟩

namespace Laws.EncodingMatch

/-- Exactly one row of the command table matches the command's word: the one with its mnemonic. -/
def Statement (i : Instr) : Prop :=
  Spec.Matches i.mnemonic (encode i) ∧
    ∀ row ∈ Spec.commandTable, encode i &&& row.mask = row.pattern → row.mnemonic = i.mnemonic

/-- A format X word matches a pattern when its fields do. -/
theorem formatX_matches {op : BitVec 8} {rd rs1 rs2 : BitVec 4} {sel : Sel} {mask pattern : Word}
    (ho : op &&& opField mask = opField pattern) (hd : rd &&& rdField mask = rdField pattern)
    (h1 : rs1 &&& rs1Field mask = rs1Field pattern) (h2 : rs2 &&& rs2Field mask = rs2Field pattern)
    (hs : sel &&& selField mask = selField pattern) :
    formatX op rd rs1 rs2 sel &&& mask = pattern := by
  obtain ⟨eo, ed, e1, e2, es⟩ := fields_and (formatX op rd rs1 rs2 sel) mask
  apply word_ext
  · rw [eo, opField_formatX, ho]
  · rw [ed, rdField_formatX, hd]
  · rw [e1, rs1Field_formatX, h1]
  · rw [e2, rs2Field_formatX, h2]
  · rw [es, selField_formatX, hs]

/-- A format I word matches the pattern of `LI`. -/
theorem formatI_matches {rd : BitVec 4} {imm : BitVec 16} {op : BitVec 8} {mask pattern : Word}
    (hm : opField mask = 0xFF#8 ∧ rdField mask = 0#4 ∧ rs1Field mask = 0xF#4 ∧ rs2Field mask = 0#4
      ∧ selField mask = 0#12)
    (hp : opField pattern = op ∧ rdField pattern = 0#4 ∧ rs1Field pattern = 0#4 ∧ rs2Field pattern = 0#4
      ∧ selField pattern = 0#12) :
    formatI op rd imm &&& mask = pattern := by
  obtain ⟨eo, ed, e1, e2, es⟩ := fields_and (formatI op rd imm) mask
  obtain ⟨mo, md, m1, m2, ms⟩ := hm
  obtain ⟨po, pd, p1, p2, ps⟩ := hp
  apply word_ext
  · rw [eo, opField_formatI, mo, po]; exact BitVec.and_allOnes
  · rw [ed, md, pd, BitVec.and_zero]
  · rw [e1, rs1Field_formatI, p1, BitVec.zero_and]
  · rw [e2, m2, p2, BitVec.and_zero]
  · rw [es, ms, ps, BitVec.and_zero]

/-- The op byte of a pattern of the table is the op byte of every word it matches. -/
theorem opField_of_match {row : Spec.CommandRow} (hr : row ∈ Spec.commandTable) {w : Word}
    (h : w &&& row.mask = row.pattern) : opField w = opField row.pattern := by
  have hm : ∀ r ∈ Spec.commandTable, opField r.mask = 0xFF#8 := by decide
  have e := (fields_and w row.mask).1
  rw [h, hm row hr] at e
  rw [e]
  exact (BitVec.and_allOnes (x := opField w)).symm

/-- The rows of the table have different op bytes. -/
theorem row_of_opField {row row' : Spec.CommandRow} (hr : row ∈ Spec.commandTable)
    (hr' : row' ∈ Spec.commandTable) (h : opField row.pattern = opField row'.pattern) : row = row' := by
  have key : ∀ r ∈ Spec.commandTable, ∀ r' ∈ Spec.commandTable,
      opField r.pattern = opField r'.pattern → r = r' := by decide +kernel
  exact key row hr row' hr' h

/-- A row that matches the command's word is the only one that does. -/
theorem statement_of_row {i : Instr} (row : Spec.CommandRow) (hr : row ∈ Spec.commandTable)
    (hm : row.mnemonic = i.mnemonic) (h : encode i &&& row.mask = row.pattern) : Statement i := by
  refine ⟨⟨row, hr, hm, h⟩, fun row' hr' h' => ?_⟩
  rw [← hm, row_of_opField hr' hr ((opField_of_match hr' h').symm.trans (opField_of_match hr h))]

theorem nop : Statement .nop :=
  statement_of_row ⟨"NOP", 0x00000000#32, 0xFFFFFFFF#32⟩ (by decide) rfl
    (formatX_matches (by decide) (by decide) (by decide) (by decide) (by decide))

theorem li (rd : RegNum) (imm : BitVec 16) : Statement (.li rd imm) :=
  statement_of_row ⟨"LI", 0x01000000#32, 0xFF0F0000#32⟩ (by decide) rfl
    (formatI_matches (by decide) (by decide))

theorem get (rs1 : RegNum) : Statement (.get rs1) :=
  statement_of_row ⟨"GET", 0x02000000#32, 0xFFF0FFFF#32⟩ (by decide) rfl
    (formatX_matches (by decide) (by decide) BitVec.and_zero (by decide) (by decide))

theorem csrr (rd : RegNum) (csr : Sel) : Statement (.csrr rd csr) :=
  statement_of_row ⟨"CSRR", 0x03000000#32, 0xFF0FF000#32⟩ (by decide) rfl
    (formatX_matches (by decide) BitVec.and_zero (by decide) (by decide) BitVec.and_zero)

theorem csrw (csr : Sel) (rs1 : RegNum) : Statement (.csrw csr rs1) :=
  statement_of_row ⟨"CSRW", 0x04000000#32, 0xFFF0F000#32⟩ (by decide) rfl
    (formatX_matches (by decide) (by decide) BitVec.and_zero (by decide) BitVec.and_zero)

theorem eclr : Statement .eclr :=
  statement_of_row ⟨"ECLR", 0x05000000#32, 0xFFFFFFFF#32⟩ (by decide) rfl
    (formatX_matches (by decide) (by decide) (by decide) (by decide) (by decide))

theorem ldt (rd : RegNum) (space : Sel) (rs1 : RegNum) : Statement (.ldt rd space rs1) :=
  statement_of_row ⟨"LDT", 0x06000000#32, 0xFF00F000#32⟩ (by decide) rfl
    (formatX_matches (by decide) BitVec.and_zero BitVec.and_zero (by decide) BitVec.and_zero)

theorem sts (rs1 rs2 : RegNum) : Statement (.sts rs1 rs2) :=
  statement_of_row ⟨"STS", 0x07000000#32, 0xFFF00FFF#32⟩ (by decide) rfl
    (formatX_matches (by decide) (by decide) BitVec.and_zero BitVec.and_zero (by decide))

theorem gfadd (rd rs1 rs2 : RegNum) : Statement (.gfadd rd rs1 rs2) :=
  statement_of_row ⟨"GFADD", 0x10000000#32, 0xFF000FFF#32⟩ (by decide) rfl
    (formatX_matches (by decide) BitVec.and_zero BitVec.and_zero BitVec.and_zero (by decide))

theorem gfmul (rd rs1 rs2 : RegNum) : Statement (.gfmul rd rs1 rs2) :=
  statement_of_row ⟨"GFMUL", 0x11000000#32, 0xFF000FFF#32⟩ (by decide) rfl
    (formatX_matches (by decide) BitVec.and_zero BitVec.and_zero BitVec.and_zero (by decide))

theorem gfinv (rd rs1 : RegNum) : Statement (.gfinv rd rs1) :=
  statement_of_row ⟨"GFINV", 0x12000000#32, 0xFF00FFFF#32⟩ (by decide) rfl
    (formatX_matches (by decide) BitVec.and_zero BitVec.and_zero (by decide) (by decide))

theorem gfinvz (rd rs1 : RegNum) : Statement (.gfinvz rd rs1) :=
  statement_of_row ⟨"GFINVZ", 0x13000000#32, 0xFF00FFFF#32⟩ (by decide) rfl
    (formatX_matches (by decide) BitVec.and_zero BitVec.and_zero (by decide) (by decide))

theorem fbuild (rs1 : RegNum) : Statement (.fbuild rs1) :=
  statement_of_row ⟨"FBUILD", 0x14000000#32, 0xFFF0FFFF#32⟩ (by decide) rfl
    (formatX_matches (by decide) (by decide) BitVec.and_zero (by decide) (by decide))

theorem mrow (row : Sel) (rs1 : RegNum) : Statement (.mrow row rs1) :=
  statement_of_row ⟨"MROW", 0x20000000#32, 0xFFF0F000#32⟩ (by decide) rfl
    (formatX_matches (by decide) (by decide) BitVec.and_zero (by decide) BitVec.and_zero)

theorem mconst (rs1 : RegNum) : Statement (.mconst rs1) :=
  statement_of_row ⟨"MCONST", 0x21000000#32, 0xFFF0FFFF#32⟩ (by decide) rfl
    (formatX_matches (by decide) (by decide) BitVec.and_zero (by decide) (by decide))

theorem matv (rd rs1 : RegNum) : Statement (.matv rd rs1) :=
  statement_of_row ⟨"MATV", 0x22000000#32, 0xFF00FFFF#32⟩ (by decide) rfl
    (formatX_matches (by decide) BitVec.and_zero BitVec.and_zero (by decide) (by decide))

theorem aff (rd rs1 : RegNum) : Statement (.aff rd rs1) :=
  statement_of_row ⟨"AFF", 0x23000000#32, 0xFF00FFFF#32⟩ (by decide) rfl
    (formatX_matches (by decide) BitVec.and_zero BitVec.and_zero (by decide) (by decide))

theorem sbuild : Statement .sbuild :=
  statement_of_row ⟨"SBUILD", 0x24000000#32, 0xFFFFFFFF#32⟩ (by decide) rfl
    (formatX_matches (by decide) (by decide) (by decide) (by decide) (by decide))

theorem sbchk : Statement .sbchk :=
  statement_of_row ⟨"SBCHK", 0x25000000#32, 0xFFFFFFFF#32⟩ (by decide) rfl
    (formatX_matches (by decide) (by decide) (by decide) (by decide) (by decide))

theorem wht (rd rs1 : RegNum) : Statement (.wht rd rs1) :=
  statement_of_row ⟨"WHT", 0x30000000#32, 0xFF00FFFF#32⟩ (by decide) rfl
    (formatX_matches (by decide) BitVec.and_zero BitVec.and_zero (by decide) (by decide))

theorem nlset : Statement .nlset :=
  statement_of_row ⟨"NLSET", 0x31000000#32, 0xFFFFFFFF#32⟩ (by decide) rfl
    (formatX_matches (by decide) (by decide) (by decide) (by decide) (by decide))

theorem bicnl : Statement .bicnl :=
  statement_of_row ⟨"BICNL", 0x32000000#32, 0xFFFFFFFF#32⟩ (by decide) rfl
    (formatX_matches (by decide) (by decide) (by decide) (by decide) (by decide))

theorem sac : Statement .sac :=
  statement_of_row ⟨"SAC", 0x40000000#32, 0xFFFFFFFF#32⟩ (by decide) rfl
    (formatX_matches (by decide) (by decide) (by decide) (by decide) (by decide))

theorem bicsac : Statement .bicsac :=
  statement_of_row ⟨"BICSAC", 0x41000000#32, 0xFFFFFFFF#32⟩ (by decide) rfl
    (formatX_matches (by decide) (by decide) (by decide) (by decide) (by decide))

theorem ddtr (rd rs1 : RegNum) : Statement (.ddtr rd rs1) :=
  statement_of_row ⟨"DDTR", 0x50000000#32, 0xFF00FFFF#32⟩ (by decide) rfl
    (formatX_matches (by decide) BitVec.and_zero BitVec.and_zero (by decide) (by decide))

theorem dap : Statement .dap :=
  statement_of_row ⟨"DAP", 0x51000000#32, 0xFFFFFFFF#32⟩ (by decide) rfl
    (formatX_matches (by decide) (by decide) (by decide) (by decide) (by decide))

theorem latc (rd rs1 : RegNum) : Statement (.latc rd rs1) :=
  statement_of_row ⟨"LATC", 0x52000000#32, 0xFF00FFFF#32⟩ (by decide) rfl
    (formatX_matches (by decide) BitVec.and_zero BitVec.and_zero (by decide) (by decide))

theorem lap : Statement .lap :=
  statement_of_row ⟨"LAP", 0x53000000#32, 0xFFFFFFFF#32⟩ (by decide) rfl
    (formatX_matches (by decide) (by decide) (by decide) (by decide) (by decide))

theorem analyze : Statement .analyze :=
  statement_of_row ⟨"ANALYZE", 0x60000000#32, 0xFFFFFFFF#32⟩ (by decide) rfl
    (formatX_matches (by decide) (by decide) (by decide) (by decide) (by decide))

theorem snap : Statement .snap :=
  statement_of_row ⟨"SNAP", 0x61000000#32, 0xFFFFFFFF#32⟩ (by decide) rfl
    (formatX_matches (by decide) (by decide) (by decide) (by decide) (by decide))

theorem cmp (rd : RegNum) (metric : Sel) : Statement (.cmp rd metric) :=
  statement_of_row ⟨"CMP", 0x62000000#32, 0xFF0FF000#32⟩ (by decide) rfl
    (formatX_matches (by decide) BitVec.and_zero (by decide) (by decide) BitVec.and_zero)

end Laws.EncodingMatch

end Sys2Proof
end

