-- ==== Sys2Proof/Laws/Registers.lean ====
section
/-! SUPPORT. The registers and the table spaces by number: what the machine reads is what the maps of the
rules give (10_state.md R43, R45, R52; 20_memory.md R82; 45_aggregate.md R245). -/

namespace Sys2Proof.Machine

/-! ### Words of flags -/

theorem statusWord_eq (f : Status) : f.word = Spec.statusWord f := by
  obtain ⟨a, b, c, d, e, g⟩ := f
  revert a b c d e g
  decide

theorem rvalidWord_eq (v : ReportValid) : v.word = Spec.rvalidWord v := by
  obtain ⟨a, b, c, d, e, g, h⟩ := v
  revert a b c d e g h
  decide

theorem setWidth_eq_ofNat {n : Nat} (v : BitVec n) : v.setWidth 32 = BitVec.ofNat 32 v.toNat := by
  apply BitVec.eq_of_toNat_eq
  simp

/-- A number below 2^32 survives in a register. -/
theorem natWord_toNat {n : Nat} (h : n < 2 ^ 32) : (natWord n).toNat = n := by
  rw [natWord, BitVec.toNat_ofNat, Nat.mod_eq_of_lt h]

/-! ### The CSR map (R43) -/

theorem bankA_value (s : State) : ∀ p ∈ reportMap, Spec.csrValue s (0x100 + p.1) = some (s.bankA.read p.2) := by
  simp [reportMap, Spec.csrValue, Spec.bankValue, Report.read, rvalidWord_eq]

theorem bankB_value (s : State) : ∀ p ∈ reportMap, Spec.csrValue s (0x200 + p.1) = some (s.bankB.read p.2) := by
  simp [reportMap, Spec.csrValue, Spec.bankValue, Report.read, rvalidWord_eq]

theorem core_value (s : State) : ∀ p ∈ coreCsrMap, Spec.csrValue s p.1 = some (s.readCsr p.2) := by
  simp [coreCsrMap, Spec.csrValue, Spec.singleValue, State.readCsr, statusWord_eq, zext32_eq, ctrlWord,
    Config.partId]

theorem cmp_value (s : State) : ∀ p ∈ cmpCsrMap, Spec.csrValue s p.1 = some (s.readCsr p.2) := by
  simp [cmpCsrMap, Spec.csrValue, Spec.singleValue, State.readCsr]

/-- Every row of the map has the value the rules give its number. -/
theorem csrMap_value (s : State) {p : Nat × Csr} (h : p ∈ csrMap) :
    Spec.csrValue s p.1 = some (s.readCsr p.2) := by
  simp only [csrMap, List.mem_append, List.mem_map] at h
  rcases h with ((h | ⟨q, hq, rfl⟩) | ⟨q, hq, rfl⟩) | h
  · exact core_value s p h
  · exact bankA_value s q hq
  · exact bankB_value s q hq
  · exact cmp_value s p h

/-- The numbers of the map. -/
theorem csrMap_numbers (n : Nat) : (∃ p ∈ csrMap, p.1 = n) ↔ Spec.IsCsrNumber n := by
  have key : csrMap.map (·.1) = List.range 13 ++ List.range' 0x100 14 ++ List.range' 0x200 14
      ++ List.range' 0x300 4 := by decide
  have : (∃ p ∈ csrMap, p.1 = n) ↔ n ∈ csrMap.map (·.1) := by simp
  rw [this, key]
  simp only [List.mem_append, List.mem_range, List.mem_range'_1, Spec.IsCsrNumber]
  omega

/-- A number of the map names its register. -/
theorem Csr.ofNumber_some {n : Sel} {c : Csr} (h : Csr.ofNumber n = some c) :
    (n.toNat, c) ∈ csrMap := by
  simp only [Csr.ofNumber, Option.map_eq_some_iff] at h
  obtain ⟨p, hp, rfl⟩ := h
  have h1 : p.1 = n.toNat := by simpa using List.find?_some hp
  rw [← h1]
  exact List.mem_of_find?_eq_some hp

/-- A number that is not in the map names no register. -/
theorem Csr.ofNumber_none {n : Sel} : Csr.ofNumber n = none ↔ ¬ Spec.IsCsrNumber n.toNat := by
  rw [← csrMap_numbers, Csr.ofNumber, Option.map_eq_none_iff, List.find?_eq_none]
  constructor
  · rintro h ⟨p, hp, e⟩
    exact h p hp (by simp [e])
  · intro h p hp e
    exact h ⟨p, hp, by simpa using e⟩

/-- What `CSRR` reads is the value of the map. -/
theorem csrValue_eq (s : State) {n : Sel} {c : Csr} (h : Csr.ofNumber n = some c) :
    Spec.csrValue s n.toNat = some (s.readCsr c) :=
  csrMap_value s (Csr.ofNumber_some h)

/-- A bank has 14 registers. -/
theorem bankValue_none (r : Report) {n : Nat} (h : 14 ≤ n) : Spec.bankValue r n = none := by
  obtain ⟨m, rfl⟩ := Nat.exists_eq_add_of_le' h
  rfl

/-- The single registers stand at 0x000 to 0x00C and 0x300 to 0x303. -/
theorem singleValue_none (s : State) {n : Nat} (h : 13 ≤ n) (h' : n < 0x300 ∨ 0x304 ≤ n) :
    Spec.singleValue s n = none := by
  unfold Spec.singleValue
  split <;> first | rfl | omega

/-- A number has a value exactly when it is in the map. -/
theorem csrValue_isSome (s : State) (n : Nat) :
    (∃ v, Spec.csrValue s n = some v) ↔ Spec.IsCsrNumber n := by
  constructor
  · rintro ⟨v, hv⟩
    by_contra hn
    have hnone : Spec.csrValue s n = none := by
      simp only [Spec.IsCsrNumber] at hn
      simp only [Spec.csrValue]
      split_ifs
      · exact bankValue_none _ (by omega)
      · exact bankValue_none _ (by omega)
      · exact singleValue_none s (by omega) (by omega)
    rw [hnone] at hv
    cases hv
  · intro h
    obtain ⟨p, hp, rfl⟩ := (csrMap_numbers n).mpr h
    exact ⟨_, csrMap_value s hp⟩

/-! ### Table spaces (R58, R82) -/

/-- What `LDT` gives of a cell. -/
def cellValue (sp : Space) (c : Int) : Word := if sp = .ws then sext32 c else natWord c.toNat

/-- The numbers 9 and above name no space. -/
theorem Space.ofNumber_none {n : Sel} (h : 9 ≤ n.toNat) : Space.ofNumber n = none := by
  unfold Space.ofNumber
  split <;> first | omega | rfl

/-- A number below 9 names a space, of the size of the rule, with the cells of the rule. -/
theorem Space.ofNumber_some {n : Sel} (h : n.toNat < 9) :
    ∃ sp, Space.ofNumber n = some sp ∧ Spec.spaceSize n.toNat = some sp.size
      ∧ ∀ (s : State) (idx : Nat),
          Spec.cellWord s n.toNat idx = (s.memRead sp idx).map (cellValue sp) := by
  have key : ∀ k, k < 9 → ∃ sp,
      (match k with
        | 0 => some Space.exp | 1 => some .log | 2 => some .sbox | 3 => some .mat | 4 => some .ws
        | 5 => some .dr | 6 => some .lc | 7 => some .sacm | 8 => some .bsm | _ => none) = some sp
      ∧ Spec.spaceSize k = some sp.size
      ∧ ∀ (s : State) (idx : Nat), Spec.cellWord s k idx = (s.memRead sp idx).map (cellValue sp) := by
    intro k hk
    interval_cases k <;>
      exact ⟨_, rfl, rfl, fun s idx => by
        simp only [Spec.cellWord, State.memRead, Option.map_map]; rfl⟩
  exact key n.toNat h

/-! ### Metrics (R245) -/

/-- A number that is not comparable names no metric. -/
theorem Metric.ofNumber_none {n : Sel} :
    (Metric.ofNumber n = none ↔ ¬ Spec.IsMetricNumber n.toNat)
      ∧ (Spec.metric n.toNat = none ↔ ¬ Spec.IsMetricNumber n.toNat) := by
  have hcases (h : Spec.IsMetricNumber n.toNat) : n.toNat = 1 ∨ n.toNat = 2 ∨ n.toNat = 3 ∨ n.toNat = 4
      ∨ n.toNat = 5 ∨ n.toNat = 6 ∨ n.toNat = 7 ∨ n.toNat = 11 ∨ n.toNat = 12 ∨ n.toNat = 13 := by
    unfold Spec.IsMetricNumber at h; omega
  unfold Metric.ofNumber Spec.metric
  refine ⟨⟨fun h hm => ?_, fun h => ?_⟩, fun h hm => ?_, fun h => ?_⟩
  · rcases hcases hm with e | e | e | e | e | e | e | e | e | e <;> rw [e] at h <;> cases h
  · unfold Spec.IsMetricNumber at h
    split <;> first | rfl | omega
  · rcases hcases hm with e | e | e | e | e | e | e | e | e | e <;> rw [e] at h <;> cases h
  · unfold Spec.IsMetricNumber at h
    split <;> first | rfl | omega

/-- The valid bit of a metric depends on the valid bits of the bank only. -/
def Metric.validBit (m : Metric) (v : ReportValid) : Bool := m.valid { Report.reset with valid := v }

theorem Metric.valid_eq (m : Metric) (r : Report) : m.valid r = m.validBit r.valid := by
  cases m <;> rfl

/-- A metric number names the register, the valid bit and the key of the rule. -/
theorem Metric.ofNumber_some {n : Sel} {m : Metric} (h : Metric.ofNumber n = some m) :
    Spec.metric n.toNat = some (m.value, m.validBit) ∧ (∀ v, m.key v = Spec.key n.toNat v)
      ∧ (n.toNat = 11 ↔ m = .bsDev) := by
  unfold Metric.ofNumber at h
  split at h <;> rename_i hn <;>
    first
    | (injection h with h
       subst h
       rw [hn]
       exact ⟨rfl, fun v => by simp [Metric.key, Spec.key, Config.sacIdeal], by decide⟩)
    | cases h

theorem winner_eq (ka kb : Int) : winner ka kb = BitVec.ofNat 2 (Spec.win ka kb) := by
  unfold winner Spec.win
  split_ifs <;> rfl

theorem winner_word (ka kb : Int) : (winner ka kb).setWidth 32 = BitVec.ofNat 32 (Spec.win ka kb) := by
  unfold winner Spec.win
  split_ifs <;> rfl

end Sys2Proof.Machine
end

