-- ==== Sys2Proof/Tests/Slice0.lean ====
section
/-! SUPPORT. Tests of the model: selectors that the well-formedness check refuses, the decoding of words
written out in the spec, single steps with the responses of 95_test_vectors.md, and for every statement with
hypotheses a concrete state and operands that meet them. -/

set_option Elab.async false

namespace Sys2Proof.Tests

open Sys2Proof.Machine

/-! ### States the tests start from -/

/-- `EXP` for generator 3 as 95_test_vectors.md section 2.1 prints it, rows 00 and 10. -/
def expRows0 : List Byte :=
  [0x01, 0x03, 0x05, 0x0F, 0x11, 0x33, 0x55, 0xFF, 0x1A, 0x2E, 0x72, 0x96, 0xA1, 0xF8, 0x13, 0x35,
   0x5F, 0xE1, 0x38, 0x48, 0xD8, 0x73, 0x95, 0xA4, 0xF7, 0x02, 0x06, 0x0A, 0x1E, 0x22, 0x66, 0xAA]

/-- `EXP` for generator 3 as 95_test_vectors.md section 2.1 prints it, rows 20 and 30. -/
def expRows1 : List Byte :=
  [0xE5, 0x34, 0x5C, 0xE4, 0x37, 0x59, 0xEB, 0x26, 0x6A, 0xBE, 0xD9, 0x70, 0x90, 0xAB, 0xE6, 0x31,
   0x53, 0xF5, 0x04, 0x0C, 0x14, 0x3C, 0x44, 0xCC, 0x4F, 0xD1, 0x68, 0xB8, 0xD3, 0x6E, 0xB2, 0xCD]

/-- `EXP` for generator 3 as 95_test_vectors.md section 2.1 prints it, rows 40 and 50. -/
def expRows2 : List Byte :=
  [0x4C, 0xD4, 0x67, 0xA9, 0xE0, 0x3B, 0x4D, 0xD7, 0x62, 0xA6, 0xF1, 0x08, 0x18, 0x28, 0x78, 0x88,
   0x83, 0x9E, 0xB9, 0xD0, 0x6B, 0xBD, 0xDC, 0x7F, 0x81, 0x98, 0xB3, 0xCE, 0x49, 0xDB, 0x76, 0x9A]

/-- `EXP` for generator 3 as 95_test_vectors.md section 2.1 prints it, rows 60 and 70. -/
def expRows3 : List Byte :=
  [0xB5, 0xC4, 0x57, 0xF9, 0x10, 0x30, 0x50, 0xF0, 0x0B, 0x1D, 0x27, 0x69, 0xBB, 0xD6, 0x61, 0xA3,
   0xFE, 0x19, 0x2B, 0x7D, 0x87, 0x92, 0xAD, 0xEC, 0x2F, 0x71, 0x93, 0xAE, 0xE9, 0x20, 0x60, 0xA0]

/-- `EXP` for generator 3 as 95_test_vectors.md section 2.1 prints it, rows 80 and 90. -/
def expRows4 : List Byte :=
  [0xFB, 0x16, 0x3A, 0x4E, 0xD2, 0x6D, 0xB7, 0xC2, 0x5D, 0xE7, 0x32, 0x56, 0xFA, 0x15, 0x3F, 0x41,
   0xC3, 0x5E, 0xE2, 0x3D, 0x47, 0xC9, 0x40, 0xC0, 0x5B, 0xED, 0x2C, 0x74, 0x9C, 0xBF, 0xDA, 0x75]

/-- `EXP` for generator 3 as 95_test_vectors.md section 2.1 prints it, rows A0 and B0. -/
def expRows5 : List Byte :=
  [0x9F, 0xBA, 0xD5, 0x64, 0xAC, 0xEF, 0x2A, 0x7E, 0x82, 0x9D, 0xBC, 0xDF, 0x7A, 0x8E, 0x89, 0x80,
   0x9B, 0xB6, 0xC1, 0x58, 0xE8, 0x23, 0x65, 0xAF, 0xEA, 0x25, 0x6F, 0xB1, 0xC8, 0x43, 0xC5, 0x54]

/-- `EXP` for generator 3 as 95_test_vectors.md section 2.1 prints it, rows C0 and D0. -/
def expRows6 : List Byte :=
  [0xFC, 0x1F, 0x21, 0x63, 0xA5, 0xF4, 0x07, 0x09, 0x1B, 0x2D, 0x77, 0x99, 0xB0, 0xCB, 0x46, 0xCA,
   0x45, 0xCF, 0x4A, 0xDE, 0x79, 0x8B, 0x86, 0x91, 0xA8, 0xE3, 0x3E, 0x42, 0xC6, 0x51, 0xF3, 0x0E]

/-- `EXP` for generator 3 as 95_test_vectors.md section 2.1 prints it, rows E0 and F0. -/
def expRows7 : List Byte :=
  [0x12, 0x36, 0x5A, 0xEE, 0x29, 0x7B, 0x8D, 0x8C, 0x8F, 0x8A, 0x85, 0x94, 0xA7, 0xF2, 0x0D, 0x17,
   0x39, 0x4B, 0xDD, 0x7C, 0x84, 0x97, 0xA2, 0xFD, 0x1C, 0x24, 0x6C, 0xB4, 0xC7, 0x52, 0xF6, 0x01]

/-- `LOG` for generator 3 as 95_test_vectors.md section 2.1 prints it, rows 00 and 10. -/
def logRows0 : List Byte :=
  [0x00, 0x00, 0x19, 0x01, 0x32, 0x02, 0x1A, 0xC6, 0x4B, 0xC7, 0x1B, 0x68, 0x33, 0xEE, 0xDF, 0x03,
   0x64, 0x04, 0xE0, 0x0E, 0x34, 0x8D, 0x81, 0xEF, 0x4C, 0x71, 0x08, 0xC8, 0xF8, 0x69, 0x1C, 0xC1]

/-- `LOG` for generator 3 as 95_test_vectors.md section 2.1 prints it, rows 20 and 30. -/
def logRows1 : List Byte :=
  [0x7D, 0xC2, 0x1D, 0xB5, 0xF9, 0xB9, 0x27, 0x6A, 0x4D, 0xE4, 0xA6, 0x72, 0x9A, 0xC9, 0x09, 0x78,
   0x65, 0x2F, 0x8A, 0x05, 0x21, 0x0F, 0xE1, 0x24, 0x12, 0xF0, 0x82, 0x45, 0x35, 0x93, 0xDA, 0x8E]

/-- `LOG` for generator 3 as 95_test_vectors.md section 2.1 prints it, rows 40 and 50. -/
def logRows2 : List Byte :=
  [0x96, 0x8F, 0xDB, 0xBD, 0x36, 0xD0, 0xCE, 0x94, 0x13, 0x5C, 0xD2, 0xF1, 0x40, 0x46, 0x83, 0x38,
   0x66, 0xDD, 0xFD, 0x30, 0xBF, 0x06, 0x8B, 0x62, 0xB3, 0x25, 0xE2, 0x98, 0x22, 0x88, 0x91, 0x10]

/-- `LOG` for generator 3 as 95_test_vectors.md section 2.1 prints it, rows 60 and 70. -/
def logRows3 : List Byte :=
  [0x7E, 0x6E, 0x48, 0xC3, 0xA3, 0xB6, 0x1E, 0x42, 0x3A, 0x6B, 0x28, 0x54, 0xFA, 0x85, 0x3D, 0xBA,
   0x2B, 0x79, 0x0A, 0x15, 0x9B, 0x9F, 0x5E, 0xCA, 0x4E, 0xD4, 0xAC, 0xE5, 0xF3, 0x73, 0xA7, 0x57]

/-- `LOG` for generator 3 as 95_test_vectors.md section 2.1 prints it, rows 80 and 90. -/
def logRows4 : List Byte :=
  [0xAF, 0x58, 0xA8, 0x50, 0xF4, 0xEA, 0xD6, 0x74, 0x4F, 0xAE, 0xE9, 0xD5, 0xE7, 0xE6, 0xAD, 0xE8,
   0x2C, 0xD7, 0x75, 0x7A, 0xEB, 0x16, 0x0B, 0xF5, 0x59, 0xCB, 0x5F, 0xB0, 0x9C, 0xA9, 0x51, 0xA0]

/-- `LOG` for generator 3 as 95_test_vectors.md section 2.1 prints it, rows A0 and B0. -/
def logRows5 : List Byte :=
  [0x7F, 0x0C, 0xF6, 0x6F, 0x17, 0xC4, 0x49, 0xEC, 0xD8, 0x43, 0x1F, 0x2D, 0xA4, 0x76, 0x7B, 0xB7,
   0xCC, 0xBB, 0x3E, 0x5A, 0xFB, 0x60, 0xB1, 0x86, 0x3B, 0x52, 0xA1, 0x6C, 0xAA, 0x55, 0x29, 0x9D]

/-- `LOG` for generator 3 as 95_test_vectors.md section 2.1 prints it, rows C0 and D0. -/
def logRows6 : List Byte :=
  [0x97, 0xB2, 0x87, 0x90, 0x61, 0xBE, 0xDC, 0xFC, 0xBC, 0x95, 0xCF, 0xCD, 0x37, 0x3F, 0x5B, 0xD1,
   0x53, 0x39, 0x84, 0x3C, 0x41, 0xA2, 0x6D, 0x47, 0x14, 0x2A, 0x9E, 0x5D, 0x56, 0xF2, 0xD3, 0xAB]

/-- `LOG` for generator 3 as 95_test_vectors.md section 2.1 prints it, rows E0 and F0. -/
def logRows7 : List Byte :=
  [0x44, 0x11, 0x92, 0xD9, 0x23, 0x20, 0x2E, 0x89, 0xB4, 0x7C, 0xB8, 0x26, 0x77, 0x99, 0xE3, 0xA5,
   0x67, 0x4A, 0xED, 0xDE, 0xC5, 0x31, 0xFE, 0x18, 0x0D, 0x63, 0x8C, 0x80, 0xC0, 0xF7, 0x70, 0x07]

/-- The reference S-box as 95_test_vectors.md section 3.2 prints it, rows 00 and 10. -/
def refRows0 : List Byte :=
  [0x63, 0x7C, 0x77, 0x7B, 0xF2, 0x6B, 0x6F, 0xC5, 0x30, 0x01, 0x67, 0x2B, 0xFE, 0xD7, 0xAB, 0x76,
   0xCA, 0x82, 0xC9, 0x7D, 0xFA, 0x59, 0x47, 0xF0, 0xAD, 0xD4, 0xA2, 0xAF, 0x9C, 0xA4, 0x72, 0xC0]

/-- The reference S-box as 95_test_vectors.md section 3.2 prints it, rows 20 and 30. -/
def refRows1 : List Byte :=
  [0xB7, 0xFD, 0x93, 0x26, 0x36, 0x3F, 0xF7, 0xCC, 0x34, 0xA5, 0xE5, 0xF1, 0x71, 0xD8, 0x31, 0x15,
   0x04, 0xC7, 0x23, 0xC3, 0x18, 0x96, 0x05, 0x9A, 0x07, 0x12, 0x80, 0xE2, 0xEB, 0x27, 0xB2, 0x75]

/-- The reference S-box as 95_test_vectors.md section 3.2 prints it, rows 40 and 50. -/
def refRows2 : List Byte :=
  [0x09, 0x83, 0x2C, 0x1A, 0x1B, 0x6E, 0x5A, 0xA0, 0x52, 0x3B, 0xD6, 0xB3, 0x29, 0xE3, 0x2F, 0x84,
   0x53, 0xD1, 0x00, 0xED, 0x20, 0xFC, 0xB1, 0x5B, 0x6A, 0xCB, 0xBE, 0x39, 0x4A, 0x4C, 0x58, 0xCF]

/-- The reference S-box as 95_test_vectors.md section 3.2 prints it, rows 60 and 70. -/
def refRows3 : List Byte :=
  [0xD0, 0xEF, 0xAA, 0xFB, 0x43, 0x4D, 0x33, 0x85, 0x45, 0xF9, 0x02, 0x7F, 0x50, 0x3C, 0x9F, 0xA8,
   0x51, 0xA3, 0x40, 0x8F, 0x92, 0x9D, 0x38, 0xF5, 0xBC, 0xB6, 0xDA, 0x21, 0x10, 0xFF, 0xF3, 0xD2]

/-- The reference S-box as 95_test_vectors.md section 3.2 prints it, rows 80 and 90. -/
def refRows4 : List Byte :=
  [0xCD, 0x0C, 0x13, 0xEC, 0x5F, 0x97, 0x44, 0x17, 0xC4, 0xA7, 0x7E, 0x3D, 0x64, 0x5D, 0x19, 0x73,
   0x60, 0x81, 0x4F, 0xDC, 0x22, 0x2A, 0x90, 0x88, 0x46, 0xEE, 0xB8, 0x14, 0xDE, 0x5E, 0x0B, 0xDB]

/-- The reference S-box as 95_test_vectors.md section 3.2 prints it, rows A0 and B0. -/
def refRows5 : List Byte :=
  [0xE0, 0x32, 0x3A, 0x0A, 0x49, 0x06, 0x24, 0x5C, 0xC2, 0xD3, 0xAC, 0x62, 0x91, 0x95, 0xE4, 0x79,
   0xE7, 0xC8, 0x37, 0x6D, 0x8D, 0xD5, 0x4E, 0xA9, 0x6C, 0x56, 0xF4, 0xEA, 0x65, 0x7A, 0xAE, 0x08]

/-- The reference S-box as 95_test_vectors.md section 3.2 prints it, rows C0 and D0. -/
def refRows6 : List Byte :=
  [0xBA, 0x78, 0x25, 0x2E, 0x1C, 0xA6, 0xB4, 0xC6, 0xE8, 0xDD, 0x74, 0x1F, 0x4B, 0xBD, 0x8B, 0x8A,
   0x70, 0x3E, 0xB5, 0x66, 0x48, 0x03, 0xF6, 0x0E, 0x61, 0x35, 0x57, 0xB9, 0x86, 0xC1, 0x1D, 0x9E]

/-- The reference S-box as 95_test_vectors.md section 3.2 prints it, rows E0 and F0. -/
def refRows7 : List Byte :=
  [0xE1, 0xF8, 0x98, 0x11, 0x69, 0xD9, 0x8E, 0x94, 0x9B, 0x1E, 0x87, 0xE9, 0xCE, 0x55, 0x28, 0xDF,
   0x8C, 0xA1, 0x89, 0x0D, 0xBF, 0xE6, 0x42, 0x68, 0x41, 0x99, 0x2D, 0x0F, 0xB0, 0x54, 0xBB, 0x16]

/-- The reference S-box (95_test_vectors.md section 3.2). -/
def refTable : Cells Byte 256 :=
  ⟨refRows0 ++ (refRows1 ++ (refRows2 ++ (refRows3 ++ (refRows4 ++ (refRows5
    ++ (refRows6 ++ refRows7)))))),
   by decide +kernel⟩

/-- `EXP` for generator 3 (95_test_vectors.md section 2.1). -/
def expTable : Cells Byte 256 :=
  ⟨expRows0 ++ (expRows1 ++ (expRows2 ++ (expRows3 ++ (expRows4 ++ (expRows5
    ++ (expRows6 ++ expRows7)))))),
   by decide +kernel⟩

/-- `LOG` for generator 3 (95_test_vectors.md section 2.1). -/
def logTable : Cells Byte 256 :=
  ⟨logRows0 ++ (logRows1 ++ (logRows2 ++ (logRows3 ++ (logRows4 ++ (logRows5
    ++ (logRows6 ++ logRows7)))))),
   by decide +kernel⟩

/-- The identity table. -/
def idTable : Cells Byte 256 := byteTable fun x => x

/-- The matrix rows F1 E3 C7 8F 1F 3E 7C F8 of "AFF-REF" (95_test_vectors.md section 3.1). -/
def refMatrix : Cells Byte 8 :=
  ⟨[0xF1#8, 0xE3#8, 0xC7#8, 0x8F#8, 0x1F#8, 0x3E#8, 0x7C#8, 0xF8#8], rfl⟩

/-- The state with `x[1]`, `x[2]` as given. -/
def withX (a b : Word) (s : State) : State := (s.setReg 1 a).setReg 2 b

/-- From reset, with an exception latched: the unit is blocked. -/
def latched : State :=
  { State.reset with
    status := { State.reset.status with err := true }
    record := { ecause := 6#8, einfo := 0#32, ecmd := 0x24000000#32, ecc := 0#32 } }

/-- "GEN=3": from reset, the field tables of generator 3. -/
def fieldReady : State :=
  { State.reset with
    exp := expTable, log := logTable, gen := 3#8
    status := { State.reset.status with ftv := true } }

/-- From reset, a table in `SBOX` that was checked. -/
def checked (t : Cells Byte 256) : State :=
  { State.reset with sbox := t, status := { State.reset.status with sbv := true } }

/-- "AFF-REF" with the field tables of generator 3. -/
def affRef : State := { fieldReady with mat := refMatrix, const := 0x63#8 }

/-- What a state looks like after one command word; none if the step does not end in a next state. -/
def look {α : Type} (w : Word) (s : State) (f : State → α) : Option α :=
  match runWord w s with
  | .next t => some (f t)
  | _ => none

/-- Status and data of the last response, and the value of `ECAUSE`. -/
def reply (t : State) : Option (Nat × Nat) × Nat :=
  (t.responses.getLast?.map fun r => (r.status.toNat, r.data.toNat), t.record.ecause.toNat)

/-! ### Well-formedness: a refused term for each check, and one it accepts -/

/-- The first number after each group of the CSR map, and a reserved one (section 8.2). -/
theorem smoke_csrr : [0x00D#12, 0x010#12, 0x0FF#12, 0x10E#12, 0x20E#12, 0x304#12].map
    (fun n => (Instr.csrr 1 n).wellFormed) = List.replicate 6 false := by decide

theorem smoke_csrr_legal : [0x00C#12, 0x100#12, 0x10D#12, 0x200#12, 0x20D#12, 0x300#12, 0x303#12].map
    (fun n => (Instr.csrr 1 n).wellFormed) = List.replicate 7 true := by decide

/-- `STATUS`, `CC` and a register of the report are read-only. -/
theorem smoke_csrw : [0x001#12, 0x003#12, 0x101#12].map (fun n => (Instr.csrw n 1).wellFormed)
    = List.replicate 3 false := by decide

theorem smoke_csrw_legal : (Instr.csrw 0x002#12 1).wellFormed = true := by decide

theorem smoke_ldt : (Instr.ldt 2 9#12 1).wellFormed = false ∧ (Instr.ldt 2 8#12 1).wellFormed = true := by decide

theorem smoke_cmp : [0#12, 8#12, 10#12, 14#12].map (fun n => (Instr.cmp 1 n).wellFormed)
    = List.replicate 4 false := by decide

theorem smoke_cmp_legal : [1#12, 7#12, 11#12, 13#12].map (fun n => (Instr.cmp 1 n).wellFormed)
    = List.replicate 4 true := by decide

/-! ### Decoding of the words 95_test_vectors.md section 9 writes out, one for each command -/

theorem test_decode_nop : decode 0x00000000#32 = .ok .nop := by decide
theorem test_decode_li : decode 0x0130011B#32 = .ok (.li 3 0x011B#16) := by decide
theorem test_decode_get : decode 0x02020000#32 = .ok (.get 2) := by decide
theorem test_decode_csrr : decode 0x03C0020D#32 = .ok (.csrr 12 0x20D#12) := by decide
theorem test_decode_csrw : decode 0x04010002#32 = .ok (.csrw 0x002#12 1) := by decide
theorem test_decode_eclr : decode 0x05000000#32 = .ok .eclr := by decide
theorem test_decode_ldt : decode 0x06FE0008#32 = .ok (.ldt 15 8#12 14) := by decide
theorem test_decode_sts : decode 0x07012000#32 = .ok (.sts 1 2) := by decide
theorem test_decode_gfadd : decode 0x10312000#32 = .ok (.gfadd 3 1 2) := by decide
theorem test_decode_gfmul : decode 0x11312000#32 = .ok (.gfmul 3 1 2) := by decide
theorem test_decode_gfinv : decode 0x12430000#32 = .ok (.gfinv 4 3) := by decide
theorem test_decode_gfinvz : decode 0x13430000#32 = .ok (.gfinvz 4 3) := by decide
theorem test_decode_fbuild : decode 0x14010000#32 = .ok (.fbuild 1) := by decide
theorem test_decode_mrow : decode 0x20010007#32 = .ok (.mrow 7#12 1) := by decide
theorem test_decode_mconst : decode 0x21010000#32 = .ok (.mconst 1) := by decide
theorem test_decode_matv : decode 0x22210000#32 = .ok (.matv 2 1) := by decide
theorem test_decode_aff : decode 0x23210000#32 = .ok (.aff 2 1) := by decide
theorem test_decode_sbuild : decode 0x24000000#32 = .ok .sbuild := by decide
theorem test_decode_sbchk : decode 0x25000000#32 = .ok .sbchk := by decide
theorem test_decode_wht : decode 0x30210000#32 = .ok (.wht 2 1) := by decide
theorem test_decode_nlset : decode 0x31000000#32 = .ok .nlset := by decide
theorem test_decode_bicnl : decode 0x32000000#32 = .ok .bicnl := by decide
theorem test_decode_sac : decode 0x40000000#32 = .ok .sac := by decide
theorem test_decode_bicsac : decode 0x41000000#32 = .ok .bicsac := by decide
theorem test_decode_ddtr : decode 0x50210000#32 = .ok (.ddtr 2 1) := by decide
theorem test_decode_dap : decode 0x51000000#32 = .ok .dap := by decide
theorem test_decode_latc : decode 0x52210000#32 = .ok (.latc 2 1) := by decide
theorem test_decode_lap : decode 0x53000000#32 = .ok .lap := by decide
theorem test_decode_analyze : decode 0x60000000#32 = .ok .analyze := by decide
theorem test_decode_snap : decode 0x61000000#32 = .ok .snap := by decide
theorem test_decode_cmp : decode 0x6290000D#32 = .ok (.cmp 9 13#12) := by decide

/-- Section 8.2: words with an unknown op byte. -/
theorem test_decode_unknown : [0x08000000#32, 0x15000000#32, 0x26000000#32, 0x33000000#32, 0x42000000#32,
    0x54000000#32, 0x63000000#32, 0xFF000000#32].map decode = List.replicate 8 (.error .unknownOp) := by decide

/-- Section 8.2: words with a non-zero field that the command does not use. -/
theorem test_decode_unused : [0x00000001#32, 0x01010000#32, 0x02100000#32, 0x03001000#32, 0x04110002#32,
    0x05000001#32, 0x06211000#32, 0x07012001#32, 0x10123001#32, 0x12121000#32, 0x14100000#32, 0x24000001#32,
    0x60100000#32, 0x62110001#32].map decode = List.replicate 14 (.error .unusedFieldNotZero) := by decide

/-- The host's two readings of an opcode-table word agree with the decoder. -/
theorem test_table_word : decodeTableWord 32 0x0130011B = some (.li 3 0x011B#16)
    ∧ (State.reset.withFetchWord 32 0x0130011B).input = [.command 0x0130011B#32] := by decide

/-! ### Single steps, with the responses of 95_test_vectors.md -/

/-- Section 8.1, and R40: `NOP` advances `CC`. -/
theorem test_nop : look 0x00000000#32 State.reset (fun t => (reply t, t.cc.toNat)) = some ((some (0, 0), 0), 1) := by
  decide +kernel

/-- Section 8.1. -/
theorem test_li : look 0x01F0FFFF#32 State.reset (fun t => (reply t, t.reg 15))
    = some ((some (0, 0xFFFF), 0), 0xFFFF#32) := by
  decide +kernel

/-- Section 8.1. -/
theorem test_get : look 0x020F0000#32 (State.reset.setReg 15 0xFFFF#32) reply = some (some (0, 0xFFFF), 0) := by
  decide +kernel

/-- Section 8.1: the identification register. -/
theorem test_csrr_id : look 0x03100000#32 State.reset (fun t => t.reg 1) = some 0x53420001#32 := by decide +kernel

/-- Section 8.4: a reserved number read while blocked is answered and not latched. -/
theorem test_csrr_blocked : look 0x03900010#32 latched reply = some (some (1, 0x03900010), 6) := by decide +kernel

/-- R264, R46: bits 31:3 of the value written are dropped. -/
theorem test_csrw : look 0x04010002#32 (withX 0xFFFFFFFD#32 0#32 State.reset) (fun t => (reply t, t.ctrl))
    = some ((some (0, 5), 0), 5#3) := by
  decide +kernel

/-- Section 8.2: `STATUS` is read-only. -/
theorem test_csrw_readonly : look 0x04010001#32 State.reset reply = some (some (1, 0x04010001), 1) := by
  decide +kernel

/-- Section 8.4: `ECLR` clears `ERR` and the record. -/
theorem test_eclr : look 0x05000000#32 latched (fun t => (reply t, t.status.err, t.record.ecmd))
    = some ((some (0, 0), 0), false, 0#32) := by
  decide +kernel

/-- Section 8.3: a Walsh value of -16 is sign-extended. -/
theorem test_ldt_ws : look 0x06210004#32 (withX 4#32 0#32 { State.reset with ws := Cells.fill 256 (-16) })
    (fun t => t.reg 2) = some 0xFFFFFFF0#32 := by
  decide +kernel

/-- Section 8.3: index 8 of `MAT`. -/
theorem test_ldt_range : look 0x06210003#32 (withX 8#32 0#32 State.reset) reply = some (some (8, 8), 8) := by
  decide +kernel

/-- Section 8.3: the index is checked before the value. -/
theorem test_sts_range : look 0x07012000#32 (withX 256#32 0x100#32 State.reset) reply
    = some (some (8, 0x100), 8) := by
  decide +kernel

/-- Section 8.3: one cell is written and the S-box is no longer valid. -/
theorem test_sts : look 0x07012000#32 (withX 1#32 0x63#32 (checked idTable))
    (fun t => (cellAt t.sbox 1#8, cellAt t.sbox 2#8, t.status.sbv)) = some (0x63#8, 2#8, false) := by
  decide +kernel

/-- Section 2.4. -/
theorem test_gfadd : look 0x10312000#32 (withX 0xFF57#32 0x83#32 State.reset) (fun t => (reply t, t.reg 3))
    = some ((some (0, 0xD4), 0), 0xD4#32) := by
  decide +kernel

/-- Section 2.4. -/
theorem test_gfmul : look 0x11312000#32 (withX 0x57#32 0x83#32 fieldReady) (fun t => (reply t, t.reg 3))
    = some ((some (0, 0xC1), 0), 0xC1#32) := by
  decide +kernel

/-- Section 2.4: no field tables. -/
theorem test_gfmul_not_ready : look 0x11312000#32 (withX 0x57#32 0x83#32 State.reset) reply
    = some (some (6, 0), 6) := by
  decide +kernel

/-- Section 2.4. -/
theorem test_gfinv : look 0x12310000#32 (withX 0x53#32 0#32 fieldReady) (fun t => t.reg 3) = some 0xCA#32 := by
  decide +kernel

/-- Section 2.4: the low byte is 0. -/
theorem test_gfinv_zero : look 0x12310000#32 (withX 0x100#32 0#32 fieldReady) reply = some (some (5, 0), 5) := by
  decide +kernel

/-- Section 2.4. -/
theorem test_gfinvz : look 0x13310000#32 (withX 0x53#32 0#32 fieldReady) (fun t => t.reg 3) = some 0xCA#32 := by
  decide +kernel

/-- Section 2.4. -/
theorem test_gfinvz_zero : look 0x13310000#32 (withX 0#32 0#32 fieldReady) reply = some (some (0, 0), 0) := by
  decide +kernel

/-- Section 2.4: generator 3. -/
theorem test_fbuild : look 0x14010000#32 (withX 3#32 0#32 State.reset)
    (fun t => (reply t, t.gen, cellAt t.exp 1#8, cellAt t.log 2#8, t.status.ftv))
    = some ((some (0, 0), 0), 3#8, 3#8, 0x19#8, true) := by
  decide +kernel

/-- Section 2.4: 2 has order 51. -/
theorem test_fbuild_order : look 0x14010000#32 (withX 2#32 0#32 State.reset) (fun t => (reply t, t.status.ftv))
    = some ((some (2, 2), 2), false) := by
  decide +kernel

/-- Section 3.1. -/
theorem test_mrow : look 0x20010007#32 (withX 0xF8#32 0#32 State.reset) (fun t => t.mat.toList)
    = some [0#8, 0#8, 0#8, 0#8, 0#8, 0#8, 0#8, 0xF8#8] := by
  decide +kernel

/-- Section 3.1: the row number is checked first. -/
theorem test_mrow_range : look 0x20010009#32 (withX 0x100#32 0#32 State.reset) reply = some (some (3, 9), 3) := by
  decide +kernel

/-- Section 3.1. -/
theorem test_mconst : look 0x21010000#32 (withX 0x63#32 0#32 State.reset) (fun t => t.const) = some 0x63#8 := by
  decide +kernel

/-- Section 3.1: the whole register is checked. -/
theorem test_mconst_range : look 0x21010000#32 (withX 0xFFFF#32 0#32 State.reset) reply
    = some (some (3, 0xFFFF), 3) := by
  decide +kernel

/-- Section 3.1, the table of conventions: `CTRL = 1`. -/
theorem test_matv_rord : look 0x22210000#32 (withX 1#32 0#32 { affRef with ctrl := 1#3 }) (fun t => t.reg 2)
    = some 0xF8#32 := by
  decide +kernel

/-- Section 3.1, the table of conventions: `CTRL = 2`. -/
theorem test_matv_bord : look 0x22210000#32 (withX 1#32 0#32 { affRef with ctrl := 2#3 }) (fun t => t.reg 2)
    = some 0x8F#32 := by
  decide +kernel

/-- Section 3.1. -/
theorem test_aff : look 0x23210000#32 (withX 0x1CA#32 0#32 affRef) (fun t => t.reg 2) = some 0xED#32 := by
  decide +kernel

/-- Section 3.4: no field tables. -/
theorem test_sbuild_not_ready : look 0x24000000#32 State.reset reply = some (some (6, 0), 6) := by decide +kernel

/-- Section 3.4: the all-zero table after reset is not a permutation. -/
theorem test_sbchk_not_bijective : look 0x25000000#32 State.reset (fun t => (t.record.ecause, t.status.sbv))
    = some (4#8, false) := by
  decide +kernel

/-- Section 4.1: a cell of the spectrum; bits 31:8 of the register are ignored. -/
theorem test_wht : look 0x30210000#32 (withX 0x101#32 0#32 (checked refTable))
    (fun t => (t.ws.get 4, t.wstag, t.status.wsv)) = some (-16, 1#8, true) := by
  decide +kernel

/-- Section 4.1: no checked S-box. -/
theorem test_wht_not_valid : look 0x30210000#32 State.reset reply = some (some (7, 0), 7) := by decide +kernel

/-- Section 4.2. -/
theorem test_nlset_not_valid : look 0x31000000#32 State.reset reply = some (some (7, 0), 7) := by decide +kernel

/-- Section 4.2. -/
theorem test_bicnl_not_valid : look 0x32000000#32 State.reset reply = some (some (7, 0), 7) := by decide +kernel

/-- Section 5.1: input bit 0, output bit 3. -/
theorem test_sac : look 0x40000000#32 (checked refTable) (fun t => (t.sacm.get 3, t.bankA.valid.sac))
    = some (144, true) := by
  decide +kernel

/-- Section 6.1: a cell of the row. -/
theorem test_ddtr : look 0x50210000#32 (withX 1#32 0#32 (checked refTable))
    (fun t => (t.dr.get 0x1F, t.drtag)) = some (4, 1#8) := by
  decide +kernel

/-- Section 6.3. -/
theorem test_dap_not_valid : look 0x51000000#32 State.reset reply = some (some (7, 0), 7) := by decide +kernel

/-- Section 6.2: a cell of the column. -/
theorem test_latc : look 0x52210000#32 (withX 1#32 0#32 (checked refTable))
    (fun t => (t.lc.get 1, t.lctag)) = some (140, 1#8) := by
  decide +kernel

/-- Section 6.3. -/
theorem test_lap_not_valid : look 0x53000000#32 State.reset reply = some (some (7, 0), 7) := by decide +kernel

/-- R243 with R41: no checked S-box. -/
theorem test_analyze_not_valid : look 0x60000000#32 State.reset reply = some (some (7, 0), 7) := by decide +kernel

/-- A report with the values of two of its registers, everything else of it 0, and every valid bit set. -/
def bank (sacSum dapMax : Word) : Report :=
  { Report.reset with
    valid := { nl := true, bn := true, sac := true, bs := true, lap := true, dap := true, bsBase := false }
    sacSum := sacSum, dapMax := dapMax }

/-- Section 7.2: bank A is copied, valid bits included. -/
theorem test_snap : look 0x61000000#32 { State.reset with bankA := bank 8204#32 4#32 }
    (fun t => (reply t, t.bankB)) = some ((some (0, 0x3F), 0), bank 8204#32 4#32) := by
  decide +kernel

/-- Section 7.2: 8204 is closer to 8192 than 8272 is. -/
theorem test_cmp_sac : look 0x62100007#32 { State.reset with bankA := bank 8272#32 4#32, bankB := bank 8204#32 256#32 }
    (fun t => (t.reg 1, t.cmp.win, t.cmp.a, t.cmp.b, t.cmp.delta))
    = some (2#32, 2#2, 8272#32, 8204#32, 0x44#32) := by
  decide +kernel

/-- Section 7.2: the lower value wins, and the difference wraps. -/
theorem test_cmp_dap : look 0x6210000D#32 { State.reset with bankA := bank 8272#32 4#32, bankB := bank 8204#32 256#32 }
    (fun t => (t.reg 1, t.cmp.delta)) = some (1#32, 0xFFFFFF04#32) := by
  decide +kernel

/-- R298: a word outside the allowed op bytes is refused in the blocked state (section 8.4). -/
theorem test_blocked : look 0x08000000#32 latched reply = some (some (10, 0), 6) := by decide +kernel

/-! ### A good state that is not the reset state -/

/-- The report of the identity table (95_test_vectors.md section 7.1). -/
def identityReport : Report :=
  { valid := { nl := true, bn := true, sac := true, bs := true, lap := true, dap := true, bsBase := false }
    nlMin := 0#32, nlMax := 0#32, nlSum := 0#32
    bnMin := 0#32, bnMax := 0#32, bnSum := 0#32
    sacSum := 2048#32
    bsMin := 512#32, bsMax := 512#32, bsSum := 14336#32, bsDev := 14336#32
    lapMax := 128#32, dapMax := 256#32 }

/-- The identity table, checked and analysed, with the spectrum, DDT row and LAT column 5 (95_test_vectors.md
sections 4.1, 5.1, 5.2, 6.3) and the field tables of generator 3. -/
def analysed : State :=
  { State.reset with
    exp := expTab 3#8, log := logTab 3#8, gen := 3#8
    sbox := idTable
    status := { err := false, ftv := true, sbv := true, wsv := true, drv := true, lcv := true }
    wstag := 5#8, drtag := 5#8, lctag := 5#8
    ws := byteTable fun a => if a = 5#8 then 256 else 0
    dr := byteTable fun dy => if dy = 5#8 then 256 else 0
    lc := byteTable fun a => if a = 5#8 then 256 else 128
    sacm := Cells.tabulate 64 fun n => if n % 8 = n / 8 then 256 else 0
    bsm := Cells.tabulate 64 fun n => if n % 8 = n / 8 then 0 else 512
    bankA := identityReport
    bankB := identityReport }

theorem cellAt_idTable : cellAt idTable = fun x => x := by funext x; simp [idTable]

theorem specParity_xor (u v : Byte) : Spec.parity (u ^^^ v) = (Spec.parity u ^^ Spec.parity v) := by
  have h : ∀ w : Byte, Spec.parity w = (w.getLsbD 0 ^^ w.getLsbD 1 ^^ w.getLsbD 2 ^^ w.getLsbD 3
      ^^ w.getLsbD 4 ^^ w.getLsbD 5 ^^ w.getLsbD 6 ^^ w.getLsbD 7) := by
    intro w
    rw [← parity_eq]
    revert w
    decide +kernel
  have : Std.Commutative xor := ⟨Bool.xor_comm⟩
  simp only [h, BitVec.getLsbD_xor]
  ac_rfl

/-- There are 256 bytes. -/
theorem card_bytes : (Finset.univ : Finset Byte).card = 256 := by
  rw [← toFinset_bytes, List.toFinset_card_of_nodup nodup_bytes, length_bytes]

/-- The signs of a non-zero linear function sum to 0. -/
theorem sum_signs (u : Byte) (hu : u ≠ 0#8) :
    ∑ x : Byte, (if Spec.parity (u &&& x) = false then (1 : Int) else -1) = 0 := by
  have hc : ∃ c, Spec.parity (u &&& c) = true := by
    have h1 : ∀ u : Byte, u ≠ 0#8 → ∃ i : Fin 8, u.getLsbD i = true := by decide +kernel
    have h2 : ∀ (u : Byte) (i : Fin 8), parity (u &&& Spec.bit i) = u.getLsbD i := by decide +kernel
    obtain ⟨i, hi⟩ := h1 u hu
    exact ⟨Spec.bit i, by rw [← parity_eq, h2, hi]⟩
  obtain ⟨c, hc⟩ := hc
  have inv : Function.Involutive fun x : Byte => x ^^^ c := fun x => by
    show (x ^^^ c) ^^^ c = x
    rw [BitVec.xor_assoc, BitVec.xor_self, BitVec.xor_zero]
  have h := inv.bijective.sum_comp fun x => if Spec.parity (u &&& x) = false then (1 : Int) else -1
  have hn (x : Byte) : (if Spec.parity (u &&& (x ^^^ c)) = false then (1 : Int) else -1)
      = -(if Spec.parity (u &&& x) = false then (1 : Int) else -1) := by
    have : u &&& (x ^^^ c) = (u &&& x) ^^^ (u &&& c) := by
      apply BitVec.eq_of_getLsbD_eq; intro i _; simp [Bool.and_xor_distrib_left]
    simp only [this, specParity_xor, hc]
    cases Spec.parity (u &&& x) <;> rfl
  simp only [hn, Finset.sum_neg_distrib] at h
  omega

theorem walsh_id (b a : Byte) : Spec.walsh (cellAt idTable) b a = if a = b then 256 else 0 := by
  have h (x : Byte) : (Spec.f (cellAt idTable) b x ^^ Spec.parity (a &&& x)) = Spec.parity ((b ^^^ a) &&& x) := by
    rw [Spec.f, cellAt_idTable, ← specParity_xor]
    congr 1
    apply BitVec.eq_of_getLsbD_eq; intro i _; simp [Bool.and_xor_distrib_right]
  simp only [Spec.walsh, h]
  split
  · subst a
    simp only [BitVec.xor_self, BitVec.zero_and, show Spec.parity 0#8 = false by decide, if_true,
      Finset.sum_const, card_bytes]
    rfl
  · exact sum_signs _ fun h => ‹¬ a = b› (BitVec.xor_eq_zero_iff.mp h).symm

theorem lat_id (a b : Byte) : Spec.lat (cellAt idTable) a b = if a = b then 256 else 128 := by
  have h (x : Byte) : (Spec.f (cellAt idTable) b x ^^ Spec.parity (a &&& x)) = false ↔
      Spec.parity (a &&& x) = Spec.parity (b &&& cellAt idTable x) := by
    rw [Spec.f]; cases Spec.parity (a &&& x) <;> cases Spec.parity (b &&& cellAt idTable x) <;> simp
  have hw : Spec.walsh (cellAt idTable) b a = 2 * (Spec.lat (cellAt idTable) a b : Int) - 256 := by
    have e (x : Byte) : (if (Spec.f (cellAt idTable) b x ^^ Spec.parity (a &&& x)) = false then (1 : Int) else -1)
        = 2 * (if Spec.parity (a &&& x) = Spec.parity (b &&& cellAt idTable x) then 1 else 0) - 1 := by
      by_cases hx : Spec.parity (a &&& x) = Spec.parity (b &&& cellAt idTable x)
      · rw [if_pos ((h x).mpr hx), if_pos hx]; rfl
      · rw [if_neg (mt (h x).mp hx), if_neg hx]; rfl
    simp only [Spec.walsh, Spec.lat, e, Finset.sum_sub_distrib, ← Finset.mul_sum, Finset.sum_boole,
      Finset.sum_const, card_bytes]
    simp
  rw [walsh_id] at hw
  by_cases hab : a = b
  · rw [if_pos hab] at hw ⊢; omega
  · rw [if_neg hab] at hw ⊢; omega

theorem nl_id (b : Byte) : Spec.nl (cellAt idTable) b = 0 := by
  have h : (Spec.walsh (cellAt idTable) b b).natAbs ≤ Spec.maxw (cellAt idTable) b :=
    Finset.le_sup (f := fun a => (Spec.walsh (cellAt idTable) b a).natAbs) (Finset.mem_univ b)
  have h' : 256 ≤ Spec.maxw (cellAt idTable) b := by simpa [walsh_id] using h
  rw [Spec.nl]
  omega

theorem dflip_id (j : Fin 8) (x : Byte) : Spec.dflip (cellAt idTable) j x = Spec.bit j := by
  rw [Spec.dflip, cellAt_idTable, ← BitVec.xor_assoc, BitVec.xor_self, BitVec.zero_xor]

theorem card_const (p : Prop) [Decidable p] :
    (Finset.univ.filter fun _ : Byte => p).card = if p then 256 else 0 := by
  by_cases h : p
  · simp only [h, Finset.filter_true, card_bytes, if_true]
  · simp [h]

theorem sac_id (j i : Fin 8) : Spec.sac (cellAt idTable) j i = if i = j then 256 else 0 := by
  have h : ∀ j i : Fin 8, (Spec.bit j).getLsbD i.val = true ↔ i = j := by decide
  simp only [Spec.sac, dflip_id, card_const, h]

theorem bsum_id (i k : Fin 8) : Spec.bsum (cellAt idTable) i k = if i = k then 0 else 512 := by
  simp only [Spec.bsum, Spec.bcnt, dflip_id, card_const]
  revert i k
  decide

theorem ddt_id (dx dy : Byte) : Spec.ddt (cellAt idTable) dx dy = if dy = dx then 256 else 0 := by
  have h (x : Byte) : x ^^^ dx ^^^ x = dx := by rw [BitVec.xor_comm x dx, BitVec.xor_assoc]; simp
  simp only [Spec.ddt, cellAt_idTable, h, card_const, eq_comm]

theorem isMin_const {α : Type} {s : Finset α} {g : α → Nat} {m : Nat} {a : α} (ha : a ∈ s)
    (h : ∀ b, g b = m) : Spec.IsMin s g m :=
  ⟨⟨a, ha, h a⟩, by rintro _ ⟨b, -, rfl⟩; exact (h b).ge⟩

theorem isMax_const {α : Type} {s : Finset α} {g : α → Nat} {m : Nat} {a : α} (ha : a ∈ s)
    (h : ∀ b, g b = m) : Spec.IsMax s g m :=
  ⟨⟨a, ha, h a⟩, by rintro _ ⟨b, -, rfl⟩; exact (h b).le⟩

theorem one_mem_nonzero : 1#8 ∈ Spec.nonzero := by simp [Spec.nonzero]
theorem pair_mem_pairs : ((0 : Fin 8), (1 : Fin 8)) ∈ Spec.pairs := by decide

theorem primitive_three : Spec.Primitive 3#8 := (isPrimitive_iff _).mp (by decide +kernel)

/-- No element of the list occurs twice. -/
def distinct : List Nat → Bool
  | [] => true
  | a :: l => !l.any (Nat.beq a) && distinct l

theorem nodup_of_distinct : ∀ {l : List Nat}, distinct l = true → l.Nodup
  | [], _ => List.nodup_nil
  | a :: l, h => by
    simp only [distinct, Bool.and_eq_true, Bool.not_eq_true', List.any_eq_false] at h
    exact List.nodup_cons.mpr ⟨fun hm => h.1 a hm (Nat.beq_refl a), nodup_of_distinct h.2⟩

theorem powers_three : powers 3#8 = expTable.toList := by decide +kernel

theorem tables_three : Spec.IsTables 3#8 (cellAt (expTab 3#8)) (cellAt (logTab 3#8)) := by
  apply isTables_of_nodup
  · exact List.Nodup.of_map BitVec.toNat (nodup_of_distinct (by rw [powers_three]; decide +kernel))
  · rw [powers_three]; decide +kernel

theorem permutation_idTable : Spec.Permutation (cellAt idTable) := by
  rw [permutation_iff_injective, cellAt_idTable]
  exact fun _ _ h => h

theorem identity_bs : Spec.IsBsReport (cellAt idTable) analysed.bsm identityReport := by
  have h : ∀ i k : Fin 8, i < k → Spec.bsum (cellAt idTable) i k = 512 := fun i k hik => by
    rw [bsum_id, if_neg hik.ne]
  have hp : ∀ p ∈ Spec.pairs, Spec.bsum (cellAt idTable) p.1 p.2 = 512 := fun p hp => by
    simp only [Spec.pairs, Finset.mem_filter] at hp
    exact h _ _ hp.2
  have ht : Spec.bsTotal (cellAt idTable) = 14336 := by
    rw [Spec.bsTotal, Finset.sum_congr rfl hp]
    decide
  refine ⟨?_, ⟨⟨_, pair_mem_pairs, hp _ pair_mem_pairs⟩, ?_⟩, ⟨⟨_, pair_mem_pairs, hp _ pair_mem_pairs⟩, ?_⟩,
    ?_, ?_⟩
  · simp only [bsum_id]
    decide
  · rintro _ ⟨p, hm, rfl⟩
    exact (hp p hm).ge
  · rintro _ ⟨p, hm, rfl⟩
    exact (hp p hm).le
  · rw [ht]; rfl
  · rw [Spec.bsDev, ht]; rfl

theorem analysed_inv : analysed.Inv where
  record := ⟨by decide, by decide, fun _ => rfl⟩
  field := ⟨fun _ => ⟨primitive_three, tables_three⟩, fun h => by cases h⟩
  sbox := fun _ => permutation_idTable
  validBits := fun _ => rfl
  derived :=
    { ws := fun _ a => by simp [analysed, walsh_id]
      dr := fun _ dy => by simp [analysed, ddt_id]
      lc := fun _ a => by simp [analysed, lat_id]
      nl := fun _ => ⟨isMin_const one_mem_nonzero nl_id, isMax_const one_mem_nonzero nl_id,
        by simp [nl_id, analysed, identityReport]⟩
      bn := fun _ => ⟨isMin_const pair_mem_pairs fun _ => nl_id _, isMax_const pair_mem_pairs fun _ => nl_id _,
        by simp [nl_id, analysed, identityReport]⟩
      sac := fun _ => ⟨by
          show ∀ j i : Fin 8, analysed.sacm.get? (j.val * 8 + i.val) = some (Spec.sac (cellAt idTable) j i)
          simp only [sac_id]
          decide,
        by
          show analysed.bankA.sacSum.toNat = ∑ j, ∑ i, Spec.sac (cellAt idTable) j i
          simp only [sac_id]
          decide⟩
      bs := fun _ => identity_bs
      lap := fun _ => ⟨⟨(1#8, 1#8), by simp [Spec.nonzero], by
          show Spec.bias (cellAt idTable) 1#8 1#8 = 128
          rw [Spec.bias, lat_id, if_pos rfl]; rfl⟩, by
        rintro _ ⟨⟨a, b⟩, -, rfl⟩
        show Spec.bias (cellAt idTable) a b ≤ 128
        rw [Spec.bias, lat_id]
        split <;> decide⟩
      dap := fun _ => ⟨⟨(1#8, 1#8), by simp [Spec.nonzero], by
          show Spec.ddt (cellAt idTable) 1#8 1#8 = 256
          rw [ddt_id, if_pos rfl]⟩, by
        rintro _ ⟨⟨a, b⟩, -, rfl⟩
        show Spec.ddt (cellAt idTable) a b ≤ 256
        rw [ddt_id]
        split <;> decide⟩ }
  cells :=
    { ws := fun a => by
        simp only [analysed, cellAt_byteTable]
        split <;> decide
      dr := fun dy => by
        simp only [analysed, cellAt_byteTable]
        split <;> decide
      lc := fun a => by
        simp only [analysed, cellAt_byteTable]
        split <;> decide
      sacm := by decide
      bsm := by decide
      bsm_diagonal := by decide }
  bankA := by constructor <;> decide
  bankB := by constructor <;> decide
  compare := ⟨by decide, rfl⟩

theorem permutation_of_nodup {t : Cells Byte 256} (h : t.toList.Nodup) : Spec.Permutation (cellAt t) := by
  rw [permutation_iff_injective]
  intro a b hab
  exact byteIndex_inj.mp (Fin.ext ((h.getElem_inj_iff (hi := by rw [t.size_eq]; exact (byteIndex a).isLt)
    (hj := by rw [t.size_eq]; exact (byteIndex b).isLt)).mp hab))

theorem permutation_refTable : Spec.Permutation (cellAt refTable) :=
  permutation_of_nodup (List.Nodup.of_map BitVec.toNat (nodup_of_distinct (by decide +kernel)))

/-- Section 3.2: the table `SBUILD` builds for "AFF-REF" is the reference S-box. -/
theorem test_sbuild_table : byteTable (sbx affRef) = refTable := Cells.eq_of_toList (by decide +kernel)

/-- Section 3.4: a stored permutation is checked without field tables. -/
theorem test_sbchk : exec .sbchk { State.reset with sbox := idTable }
    = Spec.answers 0#32 (checked idTable) := by
  refine exec_respond (.inl rfl) ?_
  simp only [effect, sbchkEffect, (isPermutation_iff idTable).mpr permutation_idTable, if_true]
  rfl

/-- Section 5.2: the identity table has the pair sum 512 for each pair, 14336 in all. -/
theorem test_bicsac : bicSum idTable 2 3 = 512 ∧ (pairSums idTable).sum = 14336 := by
  refine ⟨(bicSum_eq idTable 2 3).trans (bsum_id 2 3), ?_⟩
  rw [pairSums_sum]
  exact identity_bs.2.2.2.1.symm

/-! ### Witnesses: for each statement with hypotheses, a state and operands that meet them

The two cases that most statements split into, the unit blocked or not, are met by `State.reset` and by
`latched`; each case of a range is met at its boundary values. -/

/-- The two states that differ in `ERR`. -/
theorem witness_blocked_or_not : State.reset.status.err = false ∧ latched.status.err = true := by decide

theorem witness_LiLoadsZeroExtended : State.reset.status.err = false ∧ latched.status.err = true := by decide

theorem witness_CsrrReadsCsr :
    (∃ v, Spec.csrValue State.reset (0x00C#12 : Sel).toNat = some v) ∧ ¬ Spec.IsCsrNumber (0x00D#12 : Sel).toNat
      ∧ (∃ v, Spec.csrValue State.reset (0x10D#12 : Sel).toNat = some v)
      ∧ ¬ Spec.IsCsrNumber (0x10E#12 : Sel).toNat
      ∧ (∃ v, Spec.csrValue State.reset (0x20D#12 : Sel).toNat = some v)
      ∧ (∃ v, Spec.csrValue State.reset (0x303#12 : Sel).toNat = some v)
      ∧ ¬ Spec.IsCsrNumber (0x304#12 : Sel).toNat := by
  simp only [csrValue_isSome]
  simp [Spec.IsCsrNumber]

theorem witness_CsrwWritesCtrl : State.reset.status.err = false ∧ (0x002#12 : Sel).toNat = 0x002
    ∧ (0x001#12 : Sel).toNat ≠ 0x002 ∧ latched.status.err = true := ⟨rfl, rfl, by simp, rfl⟩

/-- Spaces 8 and 9; in space 3, indices 7 and 8. -/
theorem witness_LdtLoadsCell :
    9 ≤ (9#12 : Sel).toNat ∧ (8#12 : Sel).toNat < 9 ∧ Spec.spaceSize (3#12 : Sel).toNat = some 8
      ∧ ((withX 7#32 8#32 State.reset).reg 1).toNat < 8 ∧ 8 ≤ ((withX 7#32 8#32 State.reset).reg 2).toNat := by
  decide +kernel

/-- Index and value 255 and 256. -/
theorem witness_StsStoresEntry :
    let s := withX 256#32 255#32 State.reset
    s.status.err = false ∧ 255 < (s.reg 1).toNat ∧ (s.reg 2).toNat ≤ 255 ∧ latched.status.err = true := by
  decide +kernel

theorem witness_GfaddXorsBytes : State.reset.status.err = false ∧ latched.status.err = true := by decide

theorem witness_GfmulMultipliesByTables :
    (State.reset.status.err = false ∧ State.reset.status.ftv = false)
      ∧ (analysed.status.err = false ∧ analysed.status.ftv = true) ∧ latched.status.err = true := by
  decide +kernel

/-- The low byte of 0x100 is 0, that of 0xFF is not. -/
theorem witness_GfinvInvertsOrRaises :
    let s := withX 0x100#32 0xFF#32 analysed
    (State.reset.status.err = false ∧ State.reset.status.ftv = false)
      ∧ s.status.err = false ∧ s.status.ftv = true ∧ Spec.low8 (s.reg 1) = 0#8 ∧ Spec.low8 (s.reg 2) ≠ 0#8
      ∧ latched.status.err = true := by
  decide +kernel

theorem witness_GfinvzInvertsWithZero :
    (State.reset.status.err = false ∧ State.reset.status.ftv = false)
      ∧ (analysed.status.err = false ∧ analysed.status.ftv = true) ∧ latched.status.err = true := by
  decide +kernel

/-- Generator 3; the value 0x103, which is too large; and 0, whose powers are never 1. -/
theorem witness_FbuildBuildsTables :
    let s := withX 3#32 0x103#32 State.reset
    s.status.err = false
      ∧ ((s.reg 1).toNat ≤ 255 ∧ Spec.Primitive (Spec.low8 (s.reg 1)))
      ∧ ¬ ((s.reg 2).toNat ≤ 255 ∧ Spec.Primitive (Spec.low8 (s.reg 2)))
      ∧ ¬ ((s.reg 0).toNat ≤ 255 ∧ Spec.Primitive (Spec.low8 (s.reg 0)))
      ∧ latched.status.err = true := by
  refine ⟨rfl, ⟨by decide +kernel, primitive_three⟩, fun h => absurd h.1 (by decide +kernel), fun h => ?_, rfl⟩
  exact absurd ((isPrimitive_iff _).mpr h.2) (by decide +kernel)

/-- Rows 7 and 8; values 255 and 256. -/
theorem witness_MrowWritesRow :
    let s := withX 255#32 256#32 State.reset
    s.status.err = false ∧ 8 ≤ (8#12 : Sel).toNat ∧ (7#12 : Sel).toNat < 8 ∧ (s.reg 1).toNat ≤ 255
      ∧ 255 < (s.reg 2).toNat ∧ latched.status.err = true := by
  decide +kernel

/-- Values 255 and 256. -/
theorem witness_MconstWritesConstant :
    let s := withX 255#32 256#32 State.reset
    s.status.err = false ∧ (s.reg 1).toNat ≤ 255 ∧ 255 < (s.reg 2).toNat ∧ latched.status.err = true := by
  decide +kernel

theorem witness_MatvMultiplies : affRef.status.err = false ∧ latched.status.err = true := ⟨rfl, rfl⟩

theorem witness_AffTransforms : affRef.status.err = false ∧ latched.status.err = true := ⟨rfl, rfl⟩

theorem not_permutation_zero : ¬ Spec.Permutation (cellAt (Cells.fill 256 0#8)) := by
  rw [← isPermutation_iff]
  decide +kernel

/-- With the reference matrix the entries are those of the reference S-box; with the zero matrix all are 0. -/
theorem witness_SbuildBuildsOrRaises :
    (State.reset.status.err = false ∧ State.reset.status.ftv = false)
      ∧ (affRef.status.err = false ∧ affRef.status.ftv = true
        ∧ ∃ T : Cells Byte 256, (∀ x, Spec.IsSbx affRef x (cellAt T x)) ∧ Spec.Permutation (cellAt T))
      ∧ (fieldReady.status.err = false ∧ fieldReady.status.ftv = true
        ∧ ∃ T : Cells Byte 256, (∀ x, Spec.IsSbx fieldReady x (cellAt T x)) ∧ ¬ Spec.Permutation (cellAt T))
      ∧ latched.status.err = true := by
  refine ⟨by decide, ⟨rfl, rfl, refTable, fun x => ?_, permutation_refTable⟩,
    ⟨rfl, rfl, byteTable (sbx fieldReady), fun x => ?_, fun h => ?_⟩, rfl⟩
  · rw [← test_sbuild_table, cellAt_byteTable]
    exact sbx_isSbx _ x
  · rw [cellAt_byteTable]
    exact sbx_isSbx _ x
  · have h0 : ∀ v, matv (Cells.fill 8 0#8) 0#3 v = 0#8 := by decide +kernel
    have h1 : cellAt (byteTable (sbx fieldReady)) 0#8 = cellAt (byteTable (sbx fieldReady)) 1#8 := by
      rw [cellAt_byteTable, cellAt_byteTable]
      show matv (Cells.fill 8 0#8) 0#3 _ ^^^ 0#8 = matv (Cells.fill 8 0#8) 0#3 _ ^^^ 0#8
      rw [h0, h0]
    exact absurd ((permutation_iff_injective _).mp h h1) (by decide)

theorem witness_SbchkChecksTable :
    (analysed.status.err = false ∧ Spec.Permutation (cellAt analysed.sbox))
      ∧ (State.reset.status.err = false ∧ ¬ Spec.Permutation (cellAt State.reset.sbox))
      ∧ latched.status.err = true :=
  ⟨⟨rfl, permutation_idTable⟩, ⟨rfl, not_permutation_zero⟩, rfl⟩

/-- The hypotheses of the statements about the ten commands that need a valid S-box: `WHT`, `NLSET`, `BICNL`,
`SAC`, `BICSAC`, `DDTR`, `DAP`, `LATC`, `LAP`, `ANALYZE`. -/
theorem witness_needs_sbox :
    (State.reset.status.err = false ∧ State.reset.status.sbv = false)
      ∧ (analysed.status.err = false ∧ analysed.status.sbv = true) ∧ latched.status.err = true := by
  decide +kernel

theorem witness_SnapCopiesBank : analysed.status.err = false ∧ latched.status.err = true := by decide +kernel

/-- Numbers 0, 8, 10 and 14 name no metric; 1, 7, 11 and 13 do, and the banks are ready for them, or are not. -/
theorem witness_CmpComparesMetric :
    (State.reset.status.err = false ∧ Spec.metric (0#12 : Sel).toNat = none ∧ Spec.metric (8#12 : Sel).toNat = none
        ∧ Spec.metric (10#12 : Sel).toNat = none ∧ Spec.metric (14#12 : Sel).toNat = none)
      ∧ (Spec.metric (1#12 : Sel).toNat = some (Report.nlMin, ReportValid.nl)
        ∧ Spec.metric (7#12 : Sel).toNat = some (Report.sacSum, ReportValid.sac)
        ∧ Spec.metric (11#12 : Sel).toNat = some (Report.bsDev, ReportValid.bs)
        ∧ Spec.metric (13#12 : Sel).toNat = some (Report.dapMax, ReportValid.dap))
      ∧ (analysed.status.err = false ∧ analysed.bankA.valid.bs = true ∧ analysed.bankB.valid.bs = true
        ∧ analysed.bankA.valid.bsBase = analysed.bankB.valid.bsBase)
      ∧ State.reset.bankA.valid.bs = false ∧ latched.status.err = true :=
  ⟨⟨rfl, rfl, rfl, rfl, rfl⟩, ⟨rfl, rfl, rfl, rfl⟩, ⟨rfl, rfl, rfl, rfl⟩, rfl, rfl⟩

/-- The state with one command word sent. -/
def sent (w : Word) (s : State) : State := { s with input := [.command w] }

theorem witness_StepRunsDecodedCommand :
    (sent 0x0130011B#32 State.reset).input = [.command 0x0130011B#32]
      ∧ decode 0x0130011B#32 = .ok (.li 3 0x11B#16) := by
  decide

/-- A word that raises, and one that does not. -/
theorem witness_ExceptionIsLatched : (sent 0x24000000#32 State.reset).input = [.command 0x24000000#32]
    ∧ (sent 0x24000000#32 State.reset).status.err = false := by
  decide

/-- Op bytes 0x05 and 0x06 are allowed in the blocked state, 0x01 and 0x07 are not. -/
theorem witness_BlockedStateRefuses : (sent 0x05000000#32 latched).input = [.command 0x05000000#32]
    ∧ (sent 0x05000000#32 latched).status.err = true
    ∧ Spec.RunsBlocked 0x05000000#32 ∧ Spec.RunsBlocked 0x06210009#32
    ∧ ¬ Spec.RunsBlocked 0x01000000#32 ∧ ¬ Spec.RunsBlocked 0x07012000#32 := by
  simp [Spec.RunsBlocked, Spec.op, sent, latched]

/-- One illegal word for each way to be illegal, and a legal one. -/
theorem witness_IllegalWordsRaise :
    (sent 0x08000000#32 State.reset).input = [.command 0x08000000#32]
      ∧ (sent 0x08000000#32 State.reset).status.err = false
      ∧ Spec.IsIllegal 0x08000000#32 ∧ Spec.IsIllegal 0x00000001#32 ∧ Spec.IsIllegal 0x0300000D#32
      ∧ Spec.IsIllegal 0x04010003#32 ∧ Spec.IsIllegal 0x06210009#32 ∧ Spec.IsIllegal 0x62100008#32
      ∧ ¬ Spec.IsIllegal 0x03C0020D#32 := by
  refine ⟨rfl, rfl, .inl (by decide), .inl (by decide), .inr (.inl ⟨by decide, ?_⟩),
    .inr (.inr (.inl ⟨by decide, by decide⟩)), .inr (.inr (.inr (.inl ⟨by decide, by decide⟩))),
    .inr (.inr (.inr (.inr ⟨by decide, ?_⟩))), ?_⟩
  · simp [Spec.IsCsrNumber, Spec.sel]
  · simp [Spec.IsMetricNumber, Spec.sel]
  · rintro (h | h | h | h | h)
    · exact h ⟨"CSRR", 0x03000000#32, 0xFF0FF000#32⟩ (by decide) (by decide)
    · exact h.2 (by simp [Spec.IsCsrNumber, Spec.sel])
    all_goals exact absurd h.1 (by decide)

theorem witness_RunAnswersEveryWord :
    { State.reset with input := [.command 0x01100003#32, .command 0x14010000#32] }.input
      = [0x01100003#32, 0x14010000#32].map HostInput.command := rfl

theorem witness_HostResetResets : { analysed with input := [.reset] }.input = .reset :: [] := rfl

theorem witness_EncodeDecode : decode 0x62100001#32 = .ok (.cmp 1 0x001#12) := by decide

/-- The word of a command the obligations call legal, and of one they do not. -/
theorem witness_DecodeMatchesTable : Spec.Matches "CMP" 0x62100008#32 ∧ ¬ Spec.Matches "CMP" 0x62110001#32 :=
  ⟨⟨⟨"CMP", 0x62000000#32, 0xFF0FF000#32⟩, by decide, rfl, by decide⟩, by
    rintro ⟨row, hm, hn, hw⟩
    revert row
    decide⟩

/-- For `GeneralRegisterFrame`, `OnlyNamedWriters` and `OnlyNamedFlagChanges`: every command answers a next
state; `FBUILD` of 3 is one that changes four pieces of state (`test_fbuild`). -/
theorem witness_exec_next : ∃ t, exec (.fbuild 1) (withX 3#32 0#32 State.reset) = .next t
    ∧ Spec.dest (.fbuild 1) ≠ some 1 :=
  let ⟨t, _, h, _⟩ := exec_next (.fbuild 1) (withX 3#32 0#32 State.reset)
  ⟨t, h, by decide⟩

theorem witness_StepKeepsGoodState : analysed.Inv ∧ ∃ t, step analysed = .next t :=
  ⟨analysed_inv, _, step_idle rfl⟩

theorem witness_FieldEngineLaws : FieldInv analysed ∧ analysed.status.ftv = true ∧ analysed.status.err = false
    ∧ (∃ a b : Byte, a ≠ 0#8 ∧ b ≠ 0#8) ∧ ∃ t, exec (.gfadd 3 1 2) analysed = .next t :=
  ⟨analysed_inv.field, rfl, rfl, ⟨1#8, 255#8, by decide, by decide⟩,
    let ⟨t, _, h, _⟩ := exec_next (.gfadd 3 1 2) analysed; ⟨t, h⟩⟩

theorem witness_GeneratorIndependence :
    (Spec.Primitive 3#8 ∧ Spec.IsTables 3#8 (cellAt (expTab 3#8)) (cellAt (logTab 3#8)))
      ∧ Spec.Primitive 5#8 ∧ ∃ t, exec (.fbuild 1) analysed = .next t :=
  ⟨⟨primitive_three, tables_three⟩, (isPrimitive_iff _).mp (by decide +kernel),
    let ⟨t, _, h, _⟩ := exec_next (.fbuild 1) analysed; ⟨t, h⟩⟩

/-- The conventions are rewritings of the rows of the reference matrix. -/
theorem witness_SboxBuilderLaws :
    (FieldInv analysed ∧ analysed.status.ftv = true)
      ∧ (∃ mat' : Cells Byte 8, ∀ i, mat'.get i = (refMatrix.get i).reverse)
      ∧ (∃ mat' : Cells Byte 8, ∀ i, mat'.get i = refMatrix.get i.rev)
      ∧ (3#3).getLsbD 0 = (1#3).getLsbD 0 ∧ (3#3).getLsbD 1 = true ∧ (1#3).getLsbD 1 = false
      ∧ (3#3).getLsbD 1 = (2#3).getLsbD 1 ∧ (3#3).getLsbD 0 = true ∧ (2#3).getLsbD 0 = false :=
  ⟨⟨analysed_inv.field, rfl⟩,
    ⟨⟨[0x8F#8, 0xC7#8, 0xE3#8, 0xF1#8, 0xF8#8, 0x7C#8, 0x3E#8, 0x1F#8], rfl⟩, by decide⟩,
    ⟨⟨[0xF8#8, 0x7C#8, 0x3E#8, 0x1F#8, 0x8F#8, 0xC7#8, 0xE3#8, 0xF1#8], rfl⟩, by decide⟩, by decide⟩

theorem witness_PermutationCheck : Spec.Permutation (cellAt idTable)
    ∧ ¬ Spec.Permutation (cellAt (Cells.fill 256 0#8)) := ⟨permutation_idTable, not_permutation_zero⟩

theorem witness_SpectralLaws : Spec.Permutation (cellAt idTable) ∧ (1#8 : Byte) ≠ 0#8
    ∧ analysed.status.err = false ∧ analysed.status.sbv = true ∧ ∃ t, exec (.wht 2 1) analysed = .next t :=
  ⟨permutation_idTable, by decide, rfl, rfl, let ⟨t, _, h, _⟩ := exec_next (.wht 2 1) analysed; ⟨t, h⟩⟩

theorem witness_AvalancheLaws : (0 : Fin 8) ≠ 7 ∧ (∃ t, exec .sac analysed = .next t)
    ∧ ∃ t, exec .bicsac analysed = .next t :=
  ⟨by decide, let ⟨t, _, h, _⟩ := exec_next .sac analysed; ⟨t, h⟩,
    let ⟨t, _, h, _⟩ := exec_next .bicsac analysed; ⟨t, h⟩⟩

theorem witness_DdtLaws : Spec.Permutation (cellAt idTable) ∧ (1#8 : Byte) ≠ 0#8 ∧ (255#8 : Byte) ≠ 0#8 :=
  ⟨permutation_idTable, by decide, by decide⟩

theorem witness_LatLaws : Spec.Permutation (cellAt idTable) ∧ (1#8 : Byte) ≠ 0#8 ∧ (255#8 : Byte) ≠ 0#8 :=
  ⟨permutation_idTable, by decide, by decide⟩

theorem witness_ReportRelations : analysed.Inv ∧ analysed.bankA.valid = Spec.allValid false
    ∧ analysed.status.wsv = true ∧ analysed.status.drv = true ∧ analysed.status.lcv = true
    ∧ analysed.wstag = analysed.lctag :=
  ⟨analysed_inv, rfl, rfl, rfl, rfl, rfl⟩

theorem witness_AnalyzeIsTheSixCommands : analysed.status.err = false ∧ analysed.status.sbv = true
    ∧ [Instr.dap, .lap, .bicsac, .sac, .bicnl, .nlset].Perm [.nlset, .bicnl, .sac, .bicsac, .lap, .dap]
    ∧ ∃ t, exec .analyze analysed = .next t :=
  ⟨rfl, rfl, by decide, let ⟨t, _, h, _⟩ := exec_next .analyze analysed; ⟨t, h⟩⟩

/-- The chain of the first part, at metrics 1, 7, 11 and 13; and for the second part a comparison that does not
raise. -/
theorem witness_ComparisonLaws :
    (analysed.status.err = false ∧ analysed.status.sbv = true
        ∧ (∃ t u, exec .analyze analysed = .next t ∧ exec .snap t = .next u)
        ∧ Spec.IsMetricNumber 1 ∧ Spec.IsMetricNumber 7 ∧ Spec.IsMetricNumber 11 ∧ Spec.IsMetricNumber 13)
      ∧ ∃ t, exec (.cmp 1 11#12) analysed = .next t ∧ t.status.err = false := by
  refine ⟨⟨rfl, rfl, ?_, by simp [Spec.IsMetricNumber], by simp [Spec.IsMetricNumber],
    by simp [Spec.IsMetricNumber], by simp [Spec.IsMetricNumber]⟩, _, rfl, rfl⟩
  obtain ⟨t, _, ht, _⟩ := exec_next .analyze analysed
  obtain ⟨u, _, hu, _⟩ := exec_next .snap t
  exact ⟨t, u, ht, hu⟩

end Sys2Proof.Tests
end

/-! ## Runs of command words (00_scope.md R17, R293)

A run of `n + 1` words is the step of the first word and then a run of `n` words, so what holds of every word of a
run is proved by induction on the list of words. -/

namespace Sys2Proof.Machine

/-! ### The host's run of the core -/

@[simp] theorem run_zero (s : State) : Host.Core.run core 0 s = .next s := rfl

/-- A run whose first step ends in `t` goes on from `t`. -/
theorem run_succ_of_step {M : Host.Core} {s t : M.State} (h : M.step s = .next t) (k : Nat) :
    M.run (k + 1) s = M.run k t := by
  simp only [Host.Core.run, h]

/-! ### The step that takes a command word -/

/-- The step takes the word, counts it and gives one response (R40, R292, R293). -/
theorem step_command_next {s : State} {w : Word} {rest : List HostInput} (h : s.input = .command w :: rest) :
    ∃ t r, step s = .next t ∧ t.input = rest ∧ t.cc = s.cc + 1#32 ∧ t.responses = s.responses ++ [r] := by
  obtain ⟨t, r, hrun, hcc, hresp, hin⟩ := runWord_next w { s with input := rest }
  exact ⟨t, r, by rw [step_command h, hrun], hin, hcc, hresp⟩

/-- `CC` counts modulo 2^32: `n` words after one word are `n + 1` words (R40). -/
theorem ofNat_toNat_succ_add (c : Word) (n : Nat) :
    BitVec.ofNat 32 ((c + 1#32).toNat + n) = BitVec.ofNat 32 (c.toNat + (n + 1)) := by
  apply BitVec.eq_of_toNat_eq
  simp only [BitVec.toNat_ofNat, BitVec.toNat_add]
  omega

/-! ### The order of a run -/

/-- Word `k` of `ws` is what the step after `k` steps from `s` executes, and `rs[k]` is the response that step
gives (R17, R293). -/
def AnswersInOrder (ws : List Word) (s : State) (rs : List Response) : Prop :=
  ∀ (k : Nat) (w : Word), ws[k]? = some w →
    ∃ (u v : State) (r : Response), Host.Core.run core k s = .next u
      ∧ u.input = .command w :: (ws.drop (k + 1)).map HostInput.command
      ∧ u.responses = s.responses ++ rs.take k
      ∧ step u = runWord w { u with input := (ws.drop (k + 1)).map HostInput.command }
      ∧ step u = .next v ∧ v.responses = u.responses ++ [r] ∧ rs[k]? = some r

theorem answersInOrder_nil (s : State) (rs : List Response) : AnswersInOrder [] s rs := by
  intro k w hk
  simp at hk

/-- If the first step executes `w` with response `r` and the rest of the run answers in order, the whole run
does. -/
theorem AnswersInOrder.cons {w : Word} {ws : List Word} {s t : State} {r : Response} {rs : List Response}
    (hin : s.input = (w :: ws).map HostInput.command) (hstep : step s = .next t)
    (hresp : t.responses = s.responses ++ [r]) (hrest : AnswersInOrder ws t rs) :
    AnswersInOrder (w :: ws) s (r :: rs) := by
  intro k w' hk
  cases k with
  | zero =>
    obtain rfl : w = w' := by simpa using hk
    exact ⟨s, t, r, run_zero s, hin, by simp, step_command hin, hstep, hresp, rfl⟩
  | succ k =>
    obtain ⟨u, v, r', hrun, huin, huresp, hexec, hnext, hvresp, hr'⟩ := hrest k w' hk
    have htaken : u.responses = s.responses ++ (r :: rs).take (k + 1) := by simp [huresp, hresp]
    exact ⟨u, v, r', (run_succ_of_step hstep k).trans hrun, huin, htaken, hexec, hnext, hvresp, hr'⟩

/-- Settles O36, by induction on the list of words. -/
theorem runAnswersEveryWord : Obligations.RunAnswersEveryWord := by
  intro ws
  induction ws with
  | nil =>
    intro s hin
    exact ⟨s, [], run_zero s, hin, rfl, by simp, by simp, answersInOrder_nil s []⟩
  | cons w ws ih =>
    intro s hin
    obtain ⟨t, r, hstep, htin, htcc, htresp⟩ := step_command_next hin
    obtain ⟨t', rs, hrun, hend, hlen, hresp, hcc, horder⟩ := ih t htin
    refine ⟨t', r :: rs, (run_succ_of_step hstep ws.length).trans hrun, hend, by simp [hlen], ?_, ?_,
      AnswersInOrder.cons hin hstep htresp horder⟩
    · rw [hresp, htresp, List.append_assoc, List.singleton_append]
    · rw [hcc, htcc, ofNat_toNat_succ_add, List.length_cons]

end Sys2Proof.Machine

/-! ## What changes what (10_state.md R31, R32, R41, R82)

Outside the general registers, `CC` and the responses, a command either leaves the state as it is, or latches its
exception, or makes the writes its rule names. `Writes` lists these updates, one per command that has any, and
`exec_next_writes` says that there are no others; the three frame statements read the list. -/

namespace Sys2Proof.Spec

/-! ### Flags that switch -/

@[simp] theorem switches_self (b : Bool) (up down : Prop) : Switches b b up down := by
  cases b <;> simp [Switches]

@[simp] theorem switches_true_iff (b : Bool) (up down : Prop) : Switches b true up down ↔ (b = false → up) := by
  simp [Switches]

@[simp] theorem switches_false_iff (b : Bool) (up down : Prop) : Switches b false up down ↔ (b = true → down) := by
  simp [Switches]

@[simp] theorem switches_unrestricted (b c : Bool) : Switches b c True True := by
  simp [Switches]

end Sys2Proof.Spec

namespace Sys2Proof.Machine

/-! ### The updates of a command -/

/-- `Writes s i u`: `u` is a state that executing `i` from `s` can leave, but for the general registers, `CC` and
the responses. A constructor bounds where its command writes; the values it leaves open where no frame statement
reads them. -/
inductive Writes (s : State) : Instr → State → Prop
  /-- Refused, raised while blocked, or a command with no writes but its destination (R298, R299). -/
  | nothing {i : Instr} : Writes s i s
  /-- The exception of the command is latched (R296). -/
  | latch {i : Instr} {e : Exc} {info : Word} (h : s.status.err = false) : Writes s i
      { s with
        status := { s.status with err := true }
        record := { ecause := e.code, einfo := info, ecmd := encode i, ecc := s.cc } }
  | csrw (csr : Sel) (rs1 : RegNum) (c : BitVec 3) : Writes s (.csrw csr rs1) { s with ctrl := c }
  | eclr : Writes s .eclr s.clearException
  | sts (rs1 rs2 : RegNum) (idx v : Byte) : Writes s (.sts rs1 rs2) ((s.writeSbox idx v).sboxChanged false)
  | fbuild (rs1 : RegNum) (E L : Cells Byte 256) (g : Byte) : Writes s (.fbuild rs1)
      { s with exp := E, log := L, gen := g, status := { s.status with ftv := true } }
  | mrow (row : Sel) (rs1 : RegNum) (n : Fin 8) (v : Byte) : Writes s (.mrow row rs1) (s.writeMat n v)
  | mconst (rs1 : RegNum) (v : Byte) : Writes s (.mconst rs1) { s with const := v }
  | sbuild (T : Cells Byte 256) : Writes s .sbuild { s.sboxChanged true with sbox := T }
  | sbchk : Writes s .sbchk { s with status := { s.status with sbv := true } }
  | wht (rd rs1 : RegNum) (T : Cells Int 256) (b : Byte) : Writes s (.wht rd rs1)
      { s with ws := T, wstag := b, status := { s.status with wsv := true } }
  | nlset : Writes s .nlset (writeNl s)
  | bicnl : Writes s .bicnl (writeBicnl s)
  | sac : Writes s .sac (writeSac s)
  | bicsac : Writes s .bicsac (writeBicsac s)
  | ddtr (rd rs1 : RegNum) (T : Cells Nat 256) (b : Byte) : Writes s (.ddtr rd rs1)
      { s with dr := T, drtag := b, status := { s.status with drv := true } }
  | dap : Writes s .dap (writeDap s)
  | latc (rd rs1 : RegNum) (T : Cells Nat 256) (b : Byte) : Writes s (.latc rd rs1)
      { s with lc := T, lctag := b, status := { s.status with lcv := true } }
  | lap : Writes s .lap (writeLap s)
  | analyze : Writes s .analyze (writeReport s)
  | snap : Writes s .snap { s with bankB := s.bankA }
  | cmp (rd : RegNum) (metric : Sel) (c : Comparison) : Writes s (.cmp rd metric) { s with cmp := c }

theorem Writes.x_eq {s u : State} {i : Instr} (h : Writes s i u) : u.x = s.x := by
  cases h <;> simp

theorem Writes.cc_eq {s u : State} {i : Instr} (h : Writes s i u) : u.cc = s.cc := by
  cases h <;> simp

/-- Pseudocode that responds makes the command's writes, and then writes its destination if it has one (R32). -/
theorem effect_respond_writes {i : Instr} {s t : State} {d : Word} (h : effect i s = .respond d t) :
    ∃ u, Writes s i u ∧ (t = u ∨ ∃ rd, Spec.dest i = some rd ∧ t = u.setReg rd d) := by
  cases i with
  | nop => exact ⟨s, .nothing, .inl (nopEffect_respond h).2⟩
  | li rd _ => obtain ⟨rfl, rfl⟩ := liEffect_respond h; exact ⟨s, .nothing, .inr ⟨rd, rfl, rfl⟩⟩
  | get _ => exact ⟨s, .nothing, .inl (getEffect_respond h).2⟩
  | csrr rd _ => obtain ⟨-, -, rfl, rfl⟩ := csrrEffect_respond h; exact ⟨s, .nothing, .inr ⟨rd, rfl, rfl⟩⟩
  | csrw _ _ => obtain ⟨-, -, rfl⟩ := csrwEffect_respond h; exact ⟨_, .csrw _ _ _, .inl rfl⟩
  | eclr => exact ⟨_, .eclr, .inl (eclrEffect_respond h).2⟩
  | ldt rd _ _ => obtain ⟨-, -, -, -, -, rfl⟩ := ldtEffect_respond h; exact ⟨s, .nothing, .inr ⟨rd, rfl, rfl⟩⟩
  | sts _ _ => obtain ⟨-, -, -, -, -, rfl⟩ := stsEffect_respond h; exact ⟨_, .sts _ _ _ _, .inl rfl⟩
  | gfadd rd _ _ => exact ⟨s, .nothing, .inr ⟨rd, rfl, (gfaddEffect_respond h).2⟩⟩
  | gfmul rd _ _ => obtain ⟨-, -, rfl⟩ := gfmulEffect_respond h; exact ⟨s, .nothing, .inr ⟨rd, rfl, rfl⟩⟩
  | gfinv rd _ => obtain ⟨-, -, -, rfl⟩ := gfinvEffect_respond h; exact ⟨s, .nothing, .inr ⟨rd, rfl, rfl⟩⟩
  | gfinvz rd _ => obtain ⟨-, -, rfl⟩ := gfinvzEffect_respond h; exact ⟨s, .nothing, .inr ⟨rd, rfl, rfl⟩⟩
  | fbuild _ => obtain ⟨-, -, -, -, rfl⟩ := fbuildEffect_respond h; exact ⟨_, .fbuild _ _ _ _, .inl rfl⟩
  | mrow _ _ => obtain ⟨-, -, -, -, rfl⟩ := mrowEffect_respond h; exact ⟨_, .mrow _ _ _ _, .inl rfl⟩
  | mconst _ => obtain ⟨-, -, -, rfl⟩ := mconstEffect_respond h; exact ⟨_, .mconst _ _, .inl rfl⟩
  | matv rd _ => exact ⟨s, .nothing, .inr ⟨rd, rfl, (matvEffect_respond h).2⟩⟩
  | aff rd _ => exact ⟨s, .nothing, .inr ⟨rd, rfl, (affEffect_respond h).2⟩⟩
  | sbuild => obtain ⟨-, -, -, rfl⟩ := sbuildEffect_respond h; exact ⟨_, .sbuild _, .inl rfl⟩
  | sbchk => obtain ⟨-, -, rfl⟩ := sbchkEffect_respond h; exact ⟨_, .sbchk, .inl rfl⟩
  | wht rd _ => obtain ⟨-, -, rfl⟩ := whtEffect_respond h; exact ⟨_, .wht _ _ _ _, .inr ⟨rd, rfl, rfl⟩⟩
  | nlset => obtain ⟨-, -, rfl⟩ := nlsetEffect_respond h; exact ⟨_, .nlset, .inl rfl⟩
  | bicnl => obtain ⟨-, -, rfl⟩ := bicnlEffect_respond h; exact ⟨_, .bicnl, .inl rfl⟩
  | sac => obtain ⟨-, -, rfl⟩ := sacEffect_respond h; exact ⟨_, .sac, .inl rfl⟩
  | bicsac => obtain ⟨-, -, rfl⟩ := bicsacEffect_respond h; exact ⟨_, .bicsac, .inl rfl⟩
  | ddtr rd _ => obtain ⟨-, -, rfl⟩ := ddtrEffect_respond h; exact ⟨_, .ddtr _ _ _ _, .inr ⟨rd, rfl, rfl⟩⟩
  | dap => obtain ⟨-, -, rfl⟩ := dapEffect_respond h; exact ⟨_, .dap, .inl rfl⟩
  | latc rd _ => obtain ⟨-, -, rfl⟩ := latcEffect_respond h; exact ⟨_, .latc _ _ _ _, .inr ⟨rd, rfl, rfl⟩⟩
  | lap => obtain ⟨-, -, rfl⟩ := lapEffect_respond h; exact ⟨_, .lap, .inl rfl⟩
  | analyze => obtain ⟨-, -, rfl⟩ := analyzeEffect_respond h; exact ⟨_, .analyze, .inl rfl⟩
  | snap => obtain ⟨-, rfl⟩ := snapEffect_respond h; exact ⟨_, .snap, .inl rfl⟩
  | cmp rd _ => obtain ⟨-, -, -, -, rfl⟩ := cmpEffect_respond h; exact ⟨_, .cmp _ _ _, .inr ⟨rd, rfl, rfl⟩⟩

/-- An exception is latched, or (while blocked) nothing is written (R296, R299). -/
theorem takeException_writes (i : Instr) (s : State) (e : Exc) (info : Word) :
    ∃ u r, Writes s i u ∧ takeException s e info (encode i) = u.retire r := by
  cases h : s.status.err with
  | false => exact ⟨_, _, .latch h, takeException_latch h e info (encode i)⟩
  | true => exact ⟨s, _, .nothing, takeException_keep h e info (encode i)⟩

/-- INVERSION of a command's next state: the command's writes, at most one register more, which is its
destination, and the end of the command word. -/
theorem exec_next_writes {i : Instr} {s t : State} (h : exec i s = .next t) :
    ∃ u r, Writes s i u ∧ (t = u.retire r ∨ ∃ rd v, Spec.dest i = some rd ∧ t = (u.setReg rd v).retire r) := by
  rcases exec_cases i s with ⟨-, -, hr⟩ | ⟨-, ⟨d, t', ht, hr⟩ | ⟨e, info, -, hr⟩⟩
  · obtain rfl := Host.Outcome.next.inj (h.symm.trans (hr.trans (refuses_eq s)))
    exact ⟨s, _, .nothing, .inl rfl⟩
  · obtain rfl := Host.Outcome.next.inj (h.symm.trans (hr.trans (answers_eq d t')))
    obtain ⟨u, hw, rfl | ⟨rd, hd, rfl⟩⟩ := effect_respond_writes ht
    · exact ⟨_, _, hw, .inl rfl⟩
    · exact ⟨u, _, hw, .inr ⟨rd, d, hd, rfl⟩⟩
  · obtain rfl := Host.Outcome.next.inj (h.symm.trans (hr.trans (raises_eq s e info (encode i))))
    obtain ⟨u, r, hw, ht⟩ := takeException_writes i s e info
    exact ⟨u, r, hw, .inl ht⟩

/-- The next state outside the general registers: the command's writes, `CC` and the responses. -/
theorem exec_next_eq {i : Instr} {s t : State} (h : exec i s = .next t) :
    ∃ u x rs, Writes s i u ∧ t = { u with x := x, cc := s.cc + 1#32, responses := rs } := by
  obtain ⟨u, r, hw, ht⟩ := exec_next_writes h
  rw [← hw.cc_eq]
  obtain rfl | ⟨rd, v, -, rfl⟩ := ht
  all_goals exact ⟨u, _, _, hw, rfl⟩

/-! ### General registers (R31, R32) -/

theorem reg_setReg (s : State) (r q : RegNum) (v : Word) : (s.setReg r v).reg q = if q = r then v else s.reg q := by
  split
  · next h => rw [h, State.reg_setReg_same]
  · next h => exact State.reg_setReg_ne s v h

theorem Writes.reg_eq {s u : State} {i : Instr} (h : Writes s i u) (q : RegNum) : u.reg q = s.reg q := by
  rw [State.reg, h.x_eq, State.reg]

/-- Settles O44: a command's other writes leave every general register. -/
theorem generalRegisterFrame : Obligations.GeneralRegisterFrame := by
  refine ⟨reg_setReg, fun i s t q hexec hq => ?_⟩
  obtain ⟨u, r, hw, rfl | ⟨rd, v, hd, rfl⟩⟩ := exec_next_writes hexec
  · exact hw.reg_eq q
  · have hne : q ≠ rd := fun h => hq (h ▸ hd)
    exact (State.reg_setReg_ne u v hne).trans (hw.reg_eq q)

/-! ### Spaces, special registers and flags (R41, R82) -/

/-- Settles O45, by the list of updates: each writes only components whose rule names its command. -/
theorem onlyNamedWriters : Obligations.OnlyNamedWriters := by
  intro i s t hexec
  obtain ⟨u, x, rs, hw, rfl⟩ := exec_next_eq hexec
  cases hw with
  | latch herr => simp [herr, Exc.code_ne_zero]
  | _ => simp

/-- Settles O46, by the list of updates: each switches only flags whose row names its command. -/
theorem onlyNamedFlagChanges : Obligations.OnlyNamedFlagChanges := by
  intro i s t hexec
  obtain ⟨u, x, rs, hw, rfl⟩ := exec_next_eq hexec
  cases hw with
  | latch herr => simp [herr, Exc.code_ne_zero]
  | _ => simp [ReportValid.none]

end Sys2Proof.Machine

/-! ## Encoding (30_encoding.md R111 to R117)

Decoder and encoder are inverse to each other, and the words that decode are the words that match a row of the
command table. So a word is illegal either because it does not decode, or because its command refuses its `sel`;
the second is what `wellFormed` says, and what the command's pseudocode raises `IllegalCommand` for. -/

namespace Sys2Proof

/-! ### Decoder and encoder -/

/-- The word of a command has the command's op byte, zeros where the decoder wants them, and the operands where
the decoder reads them. -/
theorem decode_encode (i : Instr) : decode (encode i) = .ok i := by
  cases i <;> simp [encode, decode, ifUnusedZero, rdOf, rs1Of, rs2Of]

/-- In each row of the decoder the op byte, the fields found zero and the operands read are all the fields of the
word. The second row is `LI`, the one command of format I; the last is the unknown op byte. -/
theorem encode_of_decode {w : Word} {i : Instr} (h : decode w = .ok i) : encode i = w := by
  unfold decode at h
  split at h <;> rename_i hop
  case h_2 =>
    obtain ⟨hz, rfl⟩ := ifUnusedZero_ok h
    rw [encode, rdOf, regField_fieldReg, ← hop]
    exact formatI_fields w (beq_iff_eq.mp hz)
  case h_32 => cases h
  all_goals
    obtain ⟨hz, rfl⟩ := ifUnusedZero_ok h
    simp only [Bool.and_eq_true, beq_iff_eq] at hz
    apply word_ext <;> simp [encode, rdOf, rs1Of, rs2Of, hop, hz]

/-- Settles O39, command by command. -/
theorem decodeEncode : Obligations.DecodeEncode := decode_encode

/-- Settles O40, by the rows of the decoder. -/
theorem encodeDecode : Obligations.EncodeDecode := fun _ _ => encode_of_decode

/-! ### The command table (R115) -/

namespace Laws.EncodingMatch

/-- `Statement` holds of every command. -/
theorem of_instr (i : Instr) : Statement i := by
  cases i
  exacts [nop, li _ _, get _, csrr _ _, csrw _ _, eclr, ldt _ _ _, sts _ _, gfadd _ _ _, gfmul _ _ _, gfinv _ _,
    gfinvz _ _, fbuild _, mrow _ _, mconst _, matv _ _, aff _ _, sbuild, sbchk, wht _ _, nlset, bicnl, sac, bicsac,
    ddtr _ _, dap, latc _ _, lap, analyze, snap, cmp _ _]

theorem pattern_fields_zero : ∀ row ∈ Spec.commandTable,
    rdField row.pattern = 0#4 ∧ rs1Field row.pattern = 0#4 ∧ rs2Field row.pattern = 0#4
      ∧ selField row.pattern = 0#12 := by decide

/-- In a word that matches a row, every field that the row's mask covers is zero. -/
theorem covered_fields_zero {row : Spec.CommandRow} (hr : row ∈ Spec.commandTable) {w : Word}
    (h : w &&& row.mask = row.pattern) :
    (rdField row.mask = BitVec.allOnes 4 → rdField w = 0#4)
      ∧ (rs1Field row.mask = BitVec.allOnes 4 → rs1Field w = 0#4)
      ∧ (rs2Field row.mask = BitVec.allOnes 4 → rs2Field w = 0#4)
      ∧ (selField row.mask = BitVec.allOnes 12 → selField w = 0#12) := by
  obtain ⟨pd, p1, p2, ps⟩ := pattern_fields_zero row hr
  obtain ⟨-, hd, h1, h2, hs⟩ := fields_and w row.mask
  rw [h] at hd h1 h2 hs
  refine ⟨fun m => ?_, fun m => ?_, fun m => ?_, fun m => ?_⟩
  · rw [← pd, hd, m, BitVec.and_allOnes]
  · rw [← p1, h1, m, BitVec.and_allOnes]
  · rw [← p2, h2, m, BitVec.and_allOnes]
  · rw [← ps, hs, m, BitVec.and_allOnes]

/-- A word that matches a row decodes to a command with the row's mnemonic: the op byte selects the decoder's row,
and the fields which that row wants zero are those that the mask covers. -/
theorem decode_of_match {row : Spec.CommandRow} (hr : row ∈ Spec.commandTable) {w : Word}
    (h : w &&& row.mask = row.pattern) : ∃ i, decode w = .ok i ∧ i.mnemonic = row.mnemonic := by
  have hop := opField_of_match hr h
  have hzero := covered_fields_zero hr h
  clear h
  simp only [Spec.commandTable, List.mem_cons, List.not_mem_nil, or_false] at hr
  casesm* _ ∨ _
  all_goals
    subst hr
    obtain ⟨hd, h1, h2, hs⟩ := hzero
    simp +decide only [forall_const, false_imp_iff] at hd h1 h2 hs
    rw [decode, hop]
    change ∃ i, ifUnusedZero _ _ = .ok i ∧ _
    simp only [*]
    exact ⟨_, rfl, rfl⟩

end Laws.EncodingMatch

/-- Settles O42: the word of every command matches its row, and a word that matches a row decodes. -/
theorem decodeMatchesTable : Obligations.DecodeMatchesTable := by
  intro w m
  constructor
  · rintro ⟨i, hi, rfl⟩
    rw [← encode_of_decode hi]
    exact (Laws.EncodingMatch.of_instr i).1
  · rintro ⟨row, hr, rfl, h⟩
    exact Laws.EncodingMatch.decode_of_match hr h

/-- Settles O43, by running the decoder on each of the ten words. -/
theorem printedWordsDecode : Obligations.PrintedWordsDecode := by
  refine ⟨?_, ?_, ?_, ?_, ?_, ?_, ?_, ?_, ?_, ?_⟩
  all_goals decide

/-! ### Selectors that a command accepts (R117) -/

theorem op_eq (w : Word) : Spec.op w = (opField w).toNat := (opField_toNat w).symm

theorem sel_eq (w : Word) : Spec.sel w = (selField w).toNat := (selField_toNat w).symm

theorem csrNumberLegal_iff (n : Sel) : csrNumberLegal n = true ↔ Spec.IsCsrNumber n.toNat := by
  simp [csrNumberLegal, Spec.IsCsrNumber, BitVec.le_def, or_assoc]

theorem metricNumberLegal_iff (n : Sel) : metricNumberLegal n = true ↔ Spec.IsMetricNumber n.toNat := by
  simp [metricNumberLegal, Spec.IsMetricNumber, BitVec.le_def]

/-- A word is illegal by R117 (a) or (b) when it does not decode. -/
theorem isIllegal_of_decode_error {w : Word} {e : DecodeError} (h : decode w = .error e) : Spec.IsIllegal w := by
  refine .inl fun row hr hm => ?_
  obtain ⟨i, hi, -⟩ := Laws.EncodingMatch.decode_of_match hr hm
  cases h.symm.trans hi

/-- The word of a command is illegal only by R117 (c), and that is by its `sel`. -/
theorem isIllegal_encode_iff (i : Instr) : Spec.IsIllegal (encode i) ↔ i.wellFormed = false := by
  have hmatch : ¬ ∀ row ∈ Spec.commandTable, encode i &&& row.mask ≠ row.pattern := by
    obtain ⟨row, hr, -, h⟩ := (Laws.EncodingMatch.of_instr i).1
    exact fun hn => hn row hr h
  rw [Spec.IsIllegal, or_iff_right hmatch, op_eq, sel_eq]
  cases i with
  | csrr rd csr => simp [encode, Instr.wellFormed, ← csrNumberLegal_iff]
  | csrw csr rs1 => simp [encode, Instr.wellFormed, BitVec.toNat_eq]
  | ldt rd space rs1 => simp [encode, Instr.wellFormed, BitVec.lt_def]; omega
  | cmp rd metric => simp [encode, Instr.wellFormed, ← metricNumberLegal_iff]
  | _ => simp [encode, Instr.wellFormed]

/-- Settles O41: the word of a command matches a row, so only its `sel` can make it illegal. -/
theorem wellFormedIsLegal : Obligations.WellFormedIsLegal := by
  intro i
  rw [isIllegal_encode_iff, Bool.not_eq_false]

end Sys2Proof

namespace Sys2Proof.Machine

/-! ### What an accepted selector names (R43, R82, R245) -/

/-- `CSRR` accepts the numbers that name a register. -/
theorem wellFormed_csrr (rd : RegNum) (csr : Sel) :
    (Instr.csrr rd csr).wellFormed = false ↔ Csr.ofNumber csr = none := by
  rw [Csr.ofNumber_none, ← csrNumberLegal_iff, Bool.not_eq_true, Instr.wellFormed]

/-- `CMP` accepts the numbers that name a metric. -/
theorem wellFormed_cmp (rd : RegNum) (metric : Sel) :
    (Instr.cmp rd metric).wellFormed = false ↔ Metric.ofNumber metric = none := by
  rw [Metric.ofNumber_none.1, ← metricNumberLegal_iff, Bool.not_eq_true, Instr.wellFormed]

/-- `LDT` accepts the numbers that name a space. -/
theorem wellFormed_ldt (rd : RegNum) (space : Sel) (rs1 : RegNum) :
    (Instr.ldt rd space rs1).wellFormed = false ↔ Space.ofNumber space = none := by
  have hle : (Instr.ldt rd space rs1).wellFormed = false ↔ 9 ≤ space.toNat := by
    simp [Instr.wellFormed, BitVec.lt_def, Nat.succ_le_iff]
  refine hle.trans ⟨Space.ofNumber_none, fun hn => ?_⟩
  by_contra hlt
  obtain ⟨sp, hsp, -⟩ := Space.ofNumber_some (not_le.mp hlt)
  cases hn.symm.trans hsp

/-! ### What raises `IllegalCommand` (R117, R292) -/

theorem Exc.code_eq_illegalCommand_iff (e : Exc) : e.code = Spec.illegalCommand ↔ e = .illegalCommand := by
  cases e <;> decide

/-- The pseudocode does not end by raising `IllegalCommand`. -/
def Effect.NotIllegal (x : Effect) : Prop := ∀ info, x ≠ .raise .illegalCommand info

@[simp] theorem notIllegal_respond (d : Word) (s : State) : (Effect.respond d s).NotIllegal := nofun

@[simp] theorem notIllegal_raise (e : Exc) (info : Word) :
    (Effect.raise e info).NotIllegal ↔ e ≠ .illegalCommand := by
  simp [Effect.NotIllegal]

@[simp] theorem notIllegal_respondInto (s : State) (rd : RegNum) (v : Word) : (respondInto s rd v).NotIllegal :=
  notIllegal_respond _ _

@[simp] theorem notIllegal_needField (s : State) (rest : State → Effect) :
    (needField s rest).NotIllegal ↔ (s.status.ftv = true → (rest s).NotIllegal) := by
  unfold needField
  split <;> simp [*]

@[simp] theorem notIllegal_needSbox (s : State) (rest : State → Effect) :
    (needSbox s rest).NotIllegal ↔ (s.status.sbv = true → (rest s).NotIllegal) := by
  unfold needSbox
  split <;> simp [*]

/-- A command that does not accept its `sel` raises `IllegalCommand` with its word (R117 (c)). -/
theorem effect_of_not_wellFormed {i : Instr} (h : i.wellFormed = false) (s : State) :
    effect i s = .raise .illegalCommand (encode i) := by
  cases i with
  | csrr rd csr => simp only [effect, csrrEffect, (wellFormed_csrr rd csr).mp h]
  | csrw csr rs1 => simpa [effect, csrwEffect, Instr.wellFormed] using h
  | ldt rd space rs1 => simp only [effect, ldtEffect, (wellFormed_ldt rd space rs1).mp h]
  | cmp rd metric => simp only [effect, cmpEffect, (wellFormed_cmp rd metric).mp h]
  | _ => cases h

/-- A command that accepts its `sel` raises other exceptions only. -/
theorem effect_notIllegal {i : Instr} (h : i.wellFormed = true) (s : State) : (effect i s).NotIllegal := by
  rw [← Bool.not_eq_false] at h
  cases i with
  | csrr rd csr =>
    simp only [effect, csrrEffect]
    split
    · next hn => exact absurd ((wellFormed_csrr rd csr).mpr hn) h
    · simp
  | csrw csr rs1 =>
    have hctrl : csr = 0x002#12 := by simpa [Instr.wellFormed] using h
    simp [effect, csrwEffect, hctrl]
  | ldt rd space rs1 =>
    simp only [effect, ldtEffect]
    split
    · next hn => exact absurd ((wellFormed_ldt rd space rs1).mpr hn) h
    · split <;> simp
  | cmp rd metric =>
    simp only [effect, cmpEffect]
    split
    · next hn => exact absurd ((wellFormed_cmp rd metric).mpr hn) h
    · split <;> simp
  | sts _ _ =>
    simp only [effect, stsEffect]
    split
    · simp
    · split <;> simp
  | gfinv _ _ =>
    simp only [effect, gfinvEffect, notIllegal_needField]
    split <;> simp
  | fbuild _ =>
    simp only [effect, fbuildEffect]
    split
    · simp
    · split <;> simp
  | mrow _ _ =>
    simp only [effect, mrowEffect]
    split
    · split <;> simp
    · simp
  | mconst _ =>
    simp only [effect, mconstEffect]
    split <;> simp
  | sbuild =>
    simp only [effect, sbuildEffect, notIllegal_needField]
    split <;> simp
  | sbchk =>
    simp only [effect, sbchkEffect]
    split <;> simp
  | gfmul _ _ _ | gfinvz _ _ => simp [effect, gfmulEffect, gfinvzEffect]
  | wht _ _ | nlset | bicnl => simp [effect, whtEffect, nlsetEffect, bicnlEffect]
  | sac | bicsac => simp [effect, sacEffect, bicsacEffect]
  | ddtr _ _ | dap | latc _ _ | lap => simp [effect, ddtrEffect, dapEffect, latcEffect, lapEffect]
  | analyze => simp [effect, analyzeEffect]
  | nop | li _ _ | get _ | eclr | gfadd _ _ _ | matv _ _ | aff _ _ | snap => exact notIllegal_respond _ _

/-- The response to a word that raises. -/
theorem raises_response (s : State) (e : Exc) (info w : Word) :
    ∃ t, Spec.raises s e.code info w = .next t
      ∧ t.responses = s.responses ++ [{ status := e.code, data := info }] :=
  ⟨takeException s e info w, raises_eq s e info w, by rw [takeException_frame]⟩

/-- An illegal word runs, outside the blocked state, into `IllegalCommand` with the word. -/
theorem runWord_of_illegal {w : Word} {s : State} (herr : s.status.err = false) (h : Spec.IsIllegal w) :
    runWord w s = Spec.raises s Exc.illegalCommand.code w w := by
  cases hd : decode w with
  | error e => rw [runWord_error hd, issueIllegal, issue_raise (.inl herr) rfl]
  | ok i =>
    rw [← encode_of_decode hd, isIllegal_encode_iff] at h
    rw [runWord_ok hd, exec_raise (.inl herr) (effect_of_not_wellFormed h s), encode_of_decode hd]

/-- A legal word is answered, outside the blocked state, with another status. -/
theorem runWord_of_legal {w : Word} {s : State} (herr : s.status.err = false) (h : ¬ Spec.IsIllegal w) :
    ∃ t r, runWord w s = .next t ∧ t.responses = s.responses ++ [r] ∧ r.status ≠ Spec.illegalCommand := by
  cases hd : decode w with
  | error e => exact absurd (isIllegal_of_decode_error hd) h
  | ok i =>
    rw [← encode_of_decode hd, isIllegal_encode_iff, Bool.not_eq_false] at h
    rw [runWord_ok hd]
    rcases exec_cases i s with ⟨hblocked, -⟩ | ⟨-, ⟨d, t, ht, hr⟩ | ⟨e, info, he, hr⟩⟩
    · cases herr.symm.trans hblocked
    · obtain ⟨-, hresp, -⟩ := effect_respond_frame ht
      exact ⟨_, _, hr, by rw [hresp], (by decide : 0#8 ≠ Spec.illegalCommand)⟩
    · have hne : e ≠ .illegalCommand := fun heq => effect_notIllegal h s info (heq ▸ he)
      obtain ⟨t, ht, hresp⟩ := raises_response s e info (encode i)
      exact ⟨t, _, hr.trans ht, hresp, mt e.code_eq_illegalCommand_iff.mp hne⟩

/-- Outside the blocked state a word is answered with `IllegalCommand` exactly when it is illegal, and then with
the word itself. -/
theorem runWord_illegalCommand_iff (w : Word) (s : State) (herr : s.status.err = false) :
    ∃ t r, runWord w s = .next t ∧ t.responses = s.responses ++ [r]
      ∧ (r.status = Spec.illegalCommand ↔ Spec.IsIllegal w) ∧ (Spec.IsIllegal w → r.data = w) := by
  by_cases h : Spec.IsIllegal w
  · obtain ⟨t, ht, hresp⟩ := raises_response s .illegalCommand w w
    exact ⟨t, _, (runWord_of_illegal herr h).trans ht, hresp, iff_of_true rfl h, fun _ => rfl⟩
  · obtain ⟨t, r, ht, hresp, hr⟩ := runWord_of_legal herr h
    exact ⟨t, r, ht, hresp, iff_of_false hr h, fun hw => absurd hw h⟩

/-- Settles O35: a word that does not decode raises by itself, a word that decodes through its pseudocode. -/
theorem illegalWordsRaise : Obligations.IllegalWordsRaise := by
  intro s w rest hin herr
  rw [step_command hin]
  exact runWord_illegalCommand_iff w { s with input := rest } herr

end Sys2Proof.Machine

/-! ## Field Engine (40_field.md R141 to R149)

`ppow(g, k)` is the orbit of 1 under multiplication by `g`, and `g` is a primitive element when that orbit has
period 255. So its 255 powers are distinct, and none is 0, since a power that is 0 keeps all later ones 0. That is
what makes the two tables of `FBUILD` the tables of R143. -/

namespace Sys2Proof.Machine

/-! ### Powers of a primitive element (R141 to R143) -/

theorem carrylessMul_zero_left (b : Byte) : carrylessMul 0#8 b = 0#15 :=
  List.foldl_fixed' (by simp) _

theorem pmul_zero_left (b : Byte) : pmul 0#8 b = 0#8 := by
  rw [pmul, carrylessMul_zero_left]
  decide

/-- A power is an iterate of the multiplication by `g` on 1. -/
theorem ppow_eq_iterate (g : Byte) (k : Nat) : ppow g k = (pmul · g)^[k] 1#8 := by
  induction k with
  | zero => rfl
  | succ k ih => rw [ppow, ih, Function.iterate_succ_apply']

/-- A power that is 0 keeps all later ones 0. -/
theorem ppow_eq_zero_of_le {g : Byte} {k n : Nat} (hkn : k ≤ n) (hk : ppow g k = 0#8) : ppow g n = 0#8 := by
  induction n, hkn using Nat.le_induction with
  | base => exact hk
  | succ n _ ih => rw [ppow, ih, pmul_zero_left]

theorem ppow_ne_zero {g : Byte} (hg : Spec.Primitive g) {k : Nat} (hk : k ≤ 255) : ppow g k ≠ 0#8 := by
  intro h
  have h255 := ppow_eq_zero_of_le hk h
  rw [hg.1] at h255
  cases h255

theorem minimalPeriod_of_primitive {g : Byte} (hg : Spec.Primitive g) :
    Function.minimalPeriod (pmul · g) 1#8 = 255 := by
  obtain ⟨hone, hleast⟩ := hg
  have hper : Function.IsPeriodicPt (pmul · g) 255 1#8 := (ppow_eq_iterate g 255).symm.trans hone
  refine (hper.minimalPeriod_le (by decide)).antisymm (not_lt.mp fun hlt => ?_)
  refine hleast _ (hper.minimalPeriod_pos (by decide)) hlt ?_
  rw [ppow_eq_iterate, Function.iterate_minimalPeriod]

/-- The powers of a primitive element below the 255th are distinct. -/
theorem ppow_injOn {g : Byte} (hg : Spec.Primitive g) : (Set.Iio 255).InjOn (ppow g) := by
  rw [← minimalPeriod_of_primitive hg, funext (ppow_eq_iterate g)]
  exact Function.iterate_injOn_Iio_minimalPeriod

theorem take_powers (g : Byte) : (powers g).take 255 = (List.range 255).map (ppow g) := by
  apply List.ext_getElem
  · simp [length_powers]
  · intro i _ _
    rw [List.getElem_take, getElem_powers, List.getElem_map, List.getElem_range]

/-- The tables the machine builds of a primitive element are its tables (R143). -/
theorem isTables_of_primitive {g : Byte} (hg : Spec.Primitive g) :
    Spec.IsTables g (cellAt (expTab g)) (cellAt (logTab g)) := by
  apply isTables_of_nodup
  · rw [take_powers]
    refine List.nodup_range.map_on fun i hi j hj => ppow_injOn hg ?_ ?_
    · exact List.mem_range.mp hi
    · exact List.mem_range.mp hj
  · rw [take_powers, List.mem_map]
    rintro ⟨i, hi, h⟩
    exact ppow_ne_zero hg (List.mem_range.mp hi).le h

/-! ### Operands and table arithmetic in the rules' words (R33, R144) -/

theorem regByte_eq (s : State) (r : RegNum) : s.regByte r = Spec.low8 (s.reg r) := setWidth8_eq_low8 _

theorem tinv_eq (E L : Cells Byte 256) (a : Byte) : tinv E L a = Spec.tinv (cellAt E) (cellAt L) a := rfl

theorem needField_of_ready {s : State} (h : s.status.ftv = true) (rest : State → Effect) :
    needField s rest = rest s := if_pos h

theorem needField_of_not_ready {s : State} (h : s.status.ftv = false) (rest : State → Effect) :
    needField s rest = .raise .fieldNotReady 0#32 := if_neg (by simp [h])

/-! ### The pseudocode of each command in the rules' words (R145 to R149) -/

theorem gfaddEffect_eq (rd rs1 rs2 : RegNum) (s : State) :
    gfaddEffect rd rs1 rs2 s
      = respondInto s rd (Spec.zext (Spec.low8 (s.reg rs1) ^^^ Spec.low8 (s.reg rs2))) := by
  rw [gfaddEffect, zext32_eq, regByte_eq, regByte_eq]

theorem gfmulEffect_of_not_ready {s : State} (h : s.status.ftv = false) (rd rs1 rs2 : RegNum) :
    gfmulEffect rd rs1 rs2 s = .raise .fieldNotReady 0#32 := needField_of_not_ready h _

theorem gfmulEffect_of_ready {s : State} (h : s.status.ftv = true) (rd rs1 rs2 : RegNum) :
    gfmulEffect rd rs1 rs2 s = respondInto s rd (Spec.zext
      (Spec.tmul (cellAt s.exp) (cellAt s.log) (Spec.low8 (s.reg rs1)) (Spec.low8 (s.reg rs2)))) := by
  rw [gfmulEffect, needField_of_ready h, zext32_eq, tmul_eq, regByte_eq, regByte_eq]

theorem gfinvEffect_of_not_ready {s : State} (h : s.status.ftv = false) (rd rs1 : RegNum) :
    gfinvEffect rd rs1 s = .raise .fieldNotReady 0#32 := needField_of_not_ready h _

theorem gfinvEffect_of_zero {s : State} {rs1 : RegNum} (h : s.status.ftv = true)
    (hz : Spec.low8 (s.reg rs1) = 0#8) (rd : RegNum) :
    gfinvEffect rd rs1 s = .raise .undefinedInverse 0#32 := by
  rw [gfinvEffect, needField_of_ready h, regByte_eq, if_pos hz]

theorem gfinvEffect_of_ne_zero {s : State} {rs1 : RegNum} (h : s.status.ftv = true)
    (hz : Spec.low8 (s.reg rs1) ≠ 0#8) (rd : RegNum) :
    gfinvEffect rd rs1 s
      = respondInto s rd (Spec.zext (Spec.tinv (cellAt s.exp) (cellAt s.log) (Spec.low8 (s.reg rs1)))) := by
  rw [gfinvEffect, needField_of_ready h, regByte_eq, if_neg hz, zext32_eq, tinv_eq]

theorem gfinvzEffect_of_not_ready {s : State} (h : s.status.ftv = false) (rd rs1 : RegNum) :
    gfinvzEffect rd rs1 s = .raise .fieldNotReady 0#32 := needField_of_not_ready h _

theorem gfinvzEffect_of_ready {s : State} (h : s.status.ftv = true) (rd rs1 : RegNum) :
    gfinvzEffect rd rs1 s
      = respondInto s rd (Spec.zext (Spec.inv0 (cellAt s.exp) (cellAt s.log) (Spec.low8 (s.reg rs1)))) := by
  rw [gfinvzEffect, needField_of_ready h, zext32_eq, inv0_eq, regByte_eq]

/-- `FBUILD` of a primitive element. -/
theorem fbuildEffect_of_primitive {s : State} {rs1 : RegNum} (hle : (s.reg rs1).toNat ≤ 255)
    (hg : Spec.Primitive (Spec.low8 (s.reg rs1))) :
    fbuildEffect rs1 s = .respond 0#32
      { s with
        exp := expTab (Spec.low8 (s.reg rs1))
        log := logTab (Spec.low8 (s.reg rs1))
        gen := Spec.low8 (s.reg rs1)
        status := { s.status with ftv := true } } := by
  simp only [fbuildEffect, asByte_le hle, setWidth8_eq_low8, (isPrimitive_iff _).mpr hg, if_true]

/-- `FBUILD` of any other operand: the whole register is checked first, then the byte. -/
theorem fbuildEffect_of_not_primitive {s : State} {rs1 : RegNum}
    (h : ¬ ((s.reg rs1).toNat ≤ 255 ∧ Spec.Primitive (Spec.low8 (s.reg rs1)))) :
    fbuildEffect rs1 s = .raise .invalidGenerator (s.reg rs1) := by
  by_cases hle : (s.reg rs1).toNat ≤ 255
  · have hg : ¬ isPrimitive (Spec.low8 (s.reg rs1)) = true := fun hp => h ⟨hle, (isPrimitive_iff _).mp hp⟩
    simp only [fbuildEffect, asByte_le hle, setWidth8_eq_low8, if_neg hg]
  · simp only [fbuildEffect, asByte_gt (not_le.mp hle)]

/-! ### The commands -/

/-- Settles O9, by the two ways the command ends: refused while blocked, otherwise with its result. -/
theorem gfaddXorsBytes : Obligations.GfaddXorsBytes := by
  intro rd rs1 rs2 s
  refine ⟨formatX_eq_wordX _ _ _ _ _, fun herr => ?_, fun herr => ?_⟩
  · exact exec_respond (.inl herr) (gfaddEffect_eq rd rs1 rs2 s)
  · exact exec_refused herr (by simp [encode, runsWhileBlocked])

/-- Settles O10, by `FTV`. -/
theorem gfmulMultipliesByTables : Obligations.GfmulMultipliesByTables := by
  intro rd rs1 rs2 s
  refine ⟨formatX_eq_wordX _ _ _ _ _, fun herr hftv => ?_, fun herr hftv => ?_, fun herr => ?_⟩
  · exact exec_raise (e := .fieldNotReady) (.inl herr) (gfmulEffect_of_not_ready hftv rd rs1 rs2)
  · exact exec_respond (.inl herr) (gfmulEffect_of_ready hftv rd rs1 rs2)
  · exact exec_refused herr (by simp [encode, runsWhileBlocked])

/-- Settles O11, by `FTV` and then by the byte. -/
theorem gfinvInvertsOrRaises : Obligations.GfinvInvertsOrRaises := by
  intro rd rs1 s
  refine ⟨formatX_eq_wordX _ _ _ 0 _, fun herr hftv => ?_, fun herr hftv hz => ?_, fun herr hftv hz => ?_,
    fun herr => ?_⟩
  · exact exec_raise (e := .fieldNotReady) (.inl herr) (gfinvEffect_of_not_ready hftv rd rs1)
  · exact exec_raise (e := .undefinedInverse) (.inl herr) (gfinvEffect_of_zero hftv hz rd)
  · exact exec_respond (.inl herr) (gfinvEffect_of_ne_zero hftv hz rd)
  · exact exec_refused herr (by simp [encode, runsWhileBlocked])

/-- Settles O12, by `FTV`. -/
theorem gfinvzInvertsWithZero : Obligations.GfinvzInvertsWithZero := by
  intro rd rs1 s
  refine ⟨formatX_eq_wordX _ _ _ 0 _, fun herr hftv => ?_, fun herr hftv => ?_, fun herr => ?_⟩
  · exact exec_raise (e := .fieldNotReady) (.inl herr) (gfinvzEffect_of_not_ready hftv rd rs1)
  · exact exec_respond (.inl herr) (gfinvzEffect_of_ready hftv rd rs1)
  · exact exec_refused herr (by simp [encode, runsWhileBlocked])

/-- Settles O13: the 255 powers of a primitive element are distinct and not 0, so the tables built of them are its
tables. -/
theorem fbuildBuildsTables : Obligations.FbuildBuildsTables := by
  intro rs1 s g
  refine ⟨formatX_eq_wordX _ 0 _ 0 _, fun herr hle hg => ?_, fun herr h => ?_, fun herr => ?_⟩
  · exact ⟨expTab g, logTab g, isTables_of_primitive hg,
      exec_respond (.inl herr) (fbuildEffect_of_primitive hle hg)⟩
  · exact exec_raise (e := .invalidGenerator) (.inl herr) (fbuildEffect_of_not_primitive h)
  · exact exec_refused herr (by simp [encode, runsWhileBlocked])

end Sys2Proof.Machine

/-! ## S-box Builder (41_sbox.md R160 to R169)

Over bytes with XOR, `pmul` is additive in each factor and `matv` is additive, and an additive map is known by its
values at the eight bytes `2^i`. That gives the laws of `pmul` from finite facts. The table inverse of `a` is then
the only byte whose product with `a` is 1, so `inv0` is its own inverse and every generator gives the same `inv0`. -/

namespace Sys2Proof.Machine

/-! ### Additive maps of bytes -/

/-- A map of bytes that respects XOR: it is linear over GF(2). -/
def XorAdditive (f : Byte → Byte) : Prop := ∀ a b, f (a ^^^ b) = f a ^^^ f b

theorem XorAdditive.map_zero {f : Byte → Byte} (hf : XorAdditive f) : f 0#8 = 0#8 := by
  simpa using hf 0#8 0#8

theorem XorAdditive.comp {f g : Byte → Byte} (hf : XorAdditive f) (hg : XorAdditive g) :
    XorAdditive fun a => f (g a) := by
  intro a b
  exact (congrArg f (hg a b)).trans (hf _ _)

theorem xorAdditive_id : XorAdditive id := fun _ _ => rfl

/-- A byte is the XOR of the `2^i` of its 1 bits. -/
theorem byte_eq_foldr_bits : ∀ a : Byte,
    a = (List.finRange 8).foldr (fun i y => (if a.getLsbD i.val then Spec.bit i else 0#8) ^^^ y) 0#8 := by
  decide +kernel

/-- Additive maps that agree at the bytes `2^i` are equal. -/
theorem XorAdditive.ext {f g : Byte → Byte} (hf : XorAdditive f) (hg : XorAdditive g)
    (h : ∀ i, f (Spec.bit i) = g (Spec.bit i)) (a : Byte) : f a = g a := by
  rw [byte_eq_foldr_bits a]
  induction List.finRange 8 with
  | nil => exact hf.map_zero.trans hg.map_zero.symm
  | cons i l ih =>
    rw [List.foldr_cons, hf, hg, ih]
    split
    · rw [h i]
    · rw [hf.map_zero, hg.map_zero]

/-! ### The product `pmul` (R141) -/

/-- A loop whose step is additive in the accumulator is additive in its start. -/
theorem foldl_xor {w : Nat} {ι : Type} {f f₁ f₂ : BitVec w → ι → BitVec w}
    (h : ∀ p q i, f (p ^^^ q) i = f₁ p i ^^^ f₂ q i) (l : List ι) (p q : BitVec w) :
    l.foldl f (p ^^^ q) = l.foldl f₁ p ^^^ l.foldl f₂ q := by
  induction l generalizing p q with
  | nil => rfl
  | cons i l ih => simp only [List.foldl_cons, h, ih]

theorem ite_xor_cond {w : Nat} (b c : Bool) (p q u : BitVec w) :
    (if (b ^^ c) = true then (p ^^^ q) ^^^ u else p ^^^ q)
      = (if b = true then p ^^^ u else p) ^^^ (if c = true then q ^^^ u else q) := by
  have cancel : (p ^^^ u) ^^^ (q ^^^ u) = p ^^^ q := by
    rw [BitVec.xor_comm q u, BitVec.xor_assoc, ← BitVec.xor_assoc u, BitVec.xor_self, BitVec.zero_xor]
  cases b <;> cases c
  · rfl
  · exact BitVec.xor_assoc p q u
  · show (p ^^^ q) ^^^ u = (p ^^^ u) ^^^ q
    ac_rfl
  · exact cancel.symm

theorem ite_xor_value {w : Nat} (b : Bool) (p q u v : BitVec w) :
    (if b = true then (p ^^^ q) ^^^ (u ^^^ v) else p ^^^ q)
      = (if b = true then p ^^^ u else p) ^^^ (if b = true then q ^^^ v else q) := by
  cases b
  · rfl
  · show (p ^^^ q) ^^^ (u ^^^ v) = (p ^^^ u) ^^^ (q ^^^ v)
    ac_rfl

theorem carrylessMul_xor_right (a b c : Byte) :
    carrylessMul a (b ^^^ c) = carrylessMul a b ^^^ carrylessMul a c :=
  foldl_xor (fun p q i => by rw [BitVec.getLsbD_xor]; exact ite_xor_cond _ _ p q _) _ 0#15 0#15

theorem carrylessMul_xor_left (a b c : Byte) :
    carrylessMul (a ^^^ b) c = carrylessMul a c ^^^ carrylessMul b c :=
  foldl_xor (fun p q i => by
    rw [BitVec.setWidth_xor, BitVec.shiftLeft_xor_distrib]; exact ite_xor_value _ p q _ _) _ 0#15 0#15

theorem reduceMod_xor (p q : BitVec 15) : reduceMod (p ^^^ q) = reduceMod p ^^^ reduceMod q :=
  foldl_xor (fun p q i => by rw [BitVec.getLsbD_xor]; exact ite_xor_cond _ _ p q _) _ p q

theorem pmul_xorAdditive_right (a : Byte) : XorAdditive (pmul a) := by
  intro b c
  rw [pmul, carrylessMul_xor_right, reduceMod_xor, BitVec.setWidth_xor, pmul, pmul]

theorem pmul_xorAdditive_left (b : Byte) : XorAdditive (pmul · b) := by
  intro a c
  simp only [pmul, carrylessMul_xor_left, reduceMod_xor, BitVec.setWidth_xor]

theorem pmul_comm (a b : Byte) : pmul a b = pmul b a := by
  have hbits : ∀ i j, pmul (Spec.bit i) (Spec.bit j) = pmul (Spec.bit j) (Spec.bit i) := by decide +kernel
  refine (pmul_xorAdditive_left b).ext (pmul_xorAdditive_right b) (fun i => ?_) a
  exact (pmul_xorAdditive_right _).ext (pmul_xorAdditive_left _) (hbits i) b

theorem pmul_assoc (a b c : Byte) : pmul (pmul a b) c = pmul a (pmul b c) := by
  have hbits : ∀ i j k, pmul (pmul (Spec.bit i) (Spec.bit j)) (Spec.bit k)
      = pmul (Spec.bit i) (pmul (Spec.bit j) (Spec.bit k)) := by decide +kernel
  have hbits₂ (i j : Fin 8) (c : Byte) : pmul (pmul (Spec.bit i) (Spec.bit j)) c
      = pmul (Spec.bit i) (pmul (Spec.bit j) c) :=
    (pmul_xorAdditive_right _).ext
      ((pmul_xorAdditive_right _).comp (pmul_xorAdditive_right _)) (hbits i j) c
  have hbits₁ (i : Fin 8) (b c : Byte) : pmul (pmul (Spec.bit i) b) c = pmul (Spec.bit i) (pmul b c) :=
    ((pmul_xorAdditive_left c).comp (pmul_xorAdditive_right _)).ext
      ((pmul_xorAdditive_right _).comp (pmul_xorAdditive_left c)) (fun j => hbits₂ i j c) b
  exact ((pmul_xorAdditive_left c).comp (pmul_xorAdditive_left b)).ext
    (pmul_xorAdditive_left (pmul b c)) (fun i => hbits₁ i b c) a

theorem pmul_one (a : Byte) : pmul a 1#8 = a :=
  (pmul_xorAdditive_left 1#8).ext xorAdditive_id (by decide +kernel) a

theorem pmul_zero (a : Byte) : pmul a 0#8 = 0#8 := (pmul_xorAdditive_right a).map_zero

/-- A byte has at most one inverse. -/
theorem eq_of_pmul_eq_one {a b c : Byte} (hb : pmul a b = 1#8) (hc : pmul a c = 1#8) : b = c := by
  calc b = pmul b (pmul a c) := by rw [hc, pmul_one]
    _ = pmul (pmul a b) c := by rw [← pmul_assoc, pmul_comm b a]
    _ = c := by rw [hb, pmul_comm, pmul_one]

theorem ppow_add (g : Byte) (i j : Nat) : ppow g (i + j) = pmul (ppow g i) (ppow g j) := by
  induction j with
  | zero => exact (pmul_one _).symm
  | succ j ih => rw [← Nat.add_assoc, ppow, ih, pmul_assoc, ppow]

/-! ### The inverse that the tables give (R143, R144) -/

theorem card_nonzero : Spec.nonzero.card = 255 := by
  rw [← toFinset_nonzeroBytes, List.toFinset_card_of_nodup nodup_nonzeroBytes, nonzeroBytes,
    List.length_map, List.length_range']

/-- Every non-zero byte is a power of a primitive element. -/
theorem exists_ppow_eq {g : Byte} (hg : Spec.Primitive g) {a : Byte} (ha : a ≠ 0#8) :
    ∃ i, i < 255 ∧ ppow g i = a := by
  have hmaps : Set.MapsTo (ppow g) (Finset.range 255) Spec.nonzero := fun i hi => by
    simpa [Spec.nonzero] using ppow_ne_zero hg (Finset.mem_range.mp hi).le
  have hinj : Set.InjOn (ppow g) (Finset.range 255) := by
    rw [Finset.coe_range]
    exact ppow_injOn hg
  have hsurj := Finset.surjOn_of_injOn_of_card_le _ hmaps hinj (by rw [card_nonzero, Finset.card_range])
  obtain ⟨i, hi, h⟩ := hsurj (show a ∈ (Spec.nonzero : Set Byte) by simpa [Spec.nonzero] using ha)
  exact ⟨i, Finset.mem_range.mp hi, h⟩

section Tables

variable {g : Byte} {E L : Byte → Byte}

theorem tinv_ppow (hT : Spec.IsTables g E L) {i : Nat} (hi : i < 255) :
    Spec.tinv E L (ppow g i) = ppow g ((255 - i) % 255) := by
  obtain ⟨hE, hL, -⟩ := hT
  have hnat : (BitVec.ofNat 8 i).toNat = i := by simp; omega
  rw [Spec.tinv, hL i hi, hnat, hE _ (by omega)]

/-- The table inverse is an inverse. -/
theorem pmul_tinv (hg : Spec.Primitive g) (hT : Spec.IsTables g E L) {a : Byte} (ha : a ≠ 0#8) :
    pmul a (Spec.tinv E L a) = 1#8 := by
  obtain ⟨i, hi, rfl⟩ := exists_ppow_eq hg ha
  rw [tinv_ppow hT hi, ← ppow_add]
  rcases Nat.eq_zero_or_pos i with rfl | hpos
  · rfl
  · rw [show i + (255 - i) % 255 = 255 by omega, hg.1]

theorem inv0_zero (E L : Byte → Byte) : Spec.inv0 E L 0#8 = 0#8 := if_pos rfl

theorem pmul_inv0 (hg : Spec.Primitive g) (hT : Spec.IsTables g E L) {a : Byte} (ha : a ≠ 0#8) :
    pmul a (Spec.inv0 E L a) = 1#8 := by
  rw [Spec.inv0, if_neg ha, pmul_tinv hg hT ha]

/-- `inv0` is its own inverse: the inverse of the inverse of `a` is the byte whose product with it is 1. -/
theorem inv0_involutive (hg : Spec.Primitive g) (hT : Spec.IsTables g E L) :
    Function.Involutive (Spec.inv0 E L) := by
  intro a
  by_cases ha : a = 0#8
  · rw [ha, inv0_zero, inv0_zero]
  · have hprod := pmul_inv0 hg hT ha
    have hne : Spec.inv0 E L a ≠ 0#8 := fun h => by rw [h, pmul_zero] at hprod; cases hprod
    exact eq_of_pmul_eq_one (pmul_inv0 hg hT hne) (by rw [pmul_comm, hprod])

/-- `inv0` does not depend on the generator of the tables. -/
theorem inv0_independent {h : Byte} {E' L' : Byte → Byte} (hg : Spec.Primitive g) (hT : Spec.IsTables g E L)
    (hh : Spec.Primitive h) (hT' : Spec.IsTables h E' L') (a : Byte) :
    Spec.inv0 E L a = Spec.inv0 E' L' a := by
  by_cases ha : a = 0#8
  · rw [ha, inv0_zero, inv0_zero]
  · exact eq_of_pmul_eq_one (pmul_inv0 hg hT ha) (pmul_inv0 hh hT' ha)

end Tables

/-! ### The matrix-vector product (R161) -/

theorem odd_xor (p q : Fin 8 → Bool) : (Spec.odd fun k => p k ^^ q k) = (Spec.odd p ^^ Spec.odd q) := by
  have hcard : (Finset.univ.filter fun k => (p k ^^ q k) = true).card
        + 2 * (Finset.univ.filter fun k => (p k && q k) = true).card
      = (Finset.univ.filter fun k => p k = true).card + (Finset.univ.filter fun k => q k = true).card := by
    simp only [Finset.card_filter, Finset.mul_sum, ← Finset.sum_add_distrib]
    refine Finset.sum_congr rfl fun k _ => ?_
    cases p k <;> cases q k <;> rfl
  simp only [Spec.odd]
  grind

theorem rowBit_xor (bord : Bool) (row u v : Byte) :
    Spec.rowBit bord row (u ^^^ v) = (Spec.rowBit bord row u ^^ Spec.rowBit bord row v) := by
  simp only [Spec.rowBit, ← odd_xor, BitVec.getLsbD_xor, Bool.and_xor_distrib_left]

theorem matv_xorAdditive (mat : Cells Byte 8) (ctrl : BitVec 3) : XorAdditive (matv mat ctrl) := by
  intro u v
  refine isMatv_unique (matv_isMatv mat ctrl (u ^^^ v)) fun i => ?_
  rw [rowBit_xor, BitVec.getLsbD_xor, matv_isMatv mat ctrl u i, matv_isMatv mat ctrl v i]

/-- Only the rows as used and the places of their bits matter. -/
theorem matv_congr {mat mat' : Cells Byte 8} {ctrl ctrl' : BitVec 3}
    (hrow : matRow mat ctrl = matRow mat' ctrl') (hpos : rord ctrl = rord ctrl') (v : Byte) :
    matv mat ctrl v = matv mat' ctrl' v := by
  simp only [matv, rowPosition, hrow, hpos]

/-- `BORD = 1` is `BORD = 0` with each row bit-reversed (R169 law 3). -/
theorem matv_reverse_bits {mat mat' : Cells Byte 8} {ctrl ctrl' : BitVec 3}
    (hmat : ∀ i, mat'.get i = (mat.get i).reverse) (hrord : ctrl'.getLsbD 0 = ctrl.getLsbD 0)
    (hone : ctrl.getLsbD 1 = true) (hzero : ctrl'.getLsbD 1 = false) (v : Byte) :
    matv mat ctrl v = matv mat' ctrl' v := by
  refine matv_congr (funext fun i => ?_) hrord.symm v
  rw [matRow, matRow, bord, bord, hone, hzero, hmat i]
  rfl

/-- `RORD = 1` is `RORD = 0` with the rows in reverse order (R169 law 3). -/
theorem matv_reverse_rows {mat mat' : Cells Byte 8} {ctrl ctrl' : BitVec 3}
    (hmat : ∀ i : Fin 8, mat'.get i = mat.get i.rev) (hbord : ctrl'.getLsbD 1 = ctrl.getLsbD 1)
    (hone : ctrl.getLsbD 0 = true) (hzero : ctrl'.getLsbD 0 = false) (v : Byte) :
    matv mat ctrl v = matv mat' ctrl' v := by
  refine isMatv_unique (matv_isMatv mat ctrl v) fun i => ?_
  have hbit := matv_isMatv mat' ctrl' v i.rev
  rw [hzero, hbord, hmat, Fin.rev_rev] at hbit
  rw [hone, ← hbit]
  simp [Fin.val_rev]

/-! ### The S-box function (R160) -/

theorem sbx_zero (s : State) : sbx s 0#8 = s.const := by
  rw [sbx, inv0_eq, inv0_zero, affine, (matv_xorAdditive _ _).map_zero, BitVec.zero_xor]

theorem xor_const_involutive (c : Byte) : Function.Involutive (· ^^^ c) :=
  fun a => xor_cancel_right a c

/-- With valid tables, `sbx` is one-to-one exactly when `matv` is: the other two maps of it are permutations. -/
theorem sbx_injective_iff {s : State} (hF : FieldInv s) (hftv : s.status.ftv = true) :
    Function.Injective (sbx s) ↔ Function.Injective (matv s.mat s.ctrl) := by
  obtain ⟨hg, hT⟩ := hF.valid hftv
  have hcomp : sbx s = (· ^^^ s.const) ∘ matv s.mat s.ctrl ∘ Spec.inv0 (cellAt s.exp) (cellAt s.log) := rfl
  rw [hcomp, (xor_const_involutive s.const).injective.of_comp_iff,
    Function.Injective.of_comp_iff' _ (inv0_involutive hg hT).bijective]

theorem permutation_sbx_iff {s : State} (hF : FieldInv s) (hftv : s.status.ftv = true) :
    Spec.Permutation (sbx s) ↔ Function.Injective (matv s.mat s.ctrl) := by
  have htable : cellAt (byteTable (sbx s)) = sbx s := funext (cellAt_byteTable _)
  rw [← sbx_injective_iff hF hftv, ← htable]
  exact permutation_iff_injective _

/-- The same parameters and any two valid generators give the same table (R169 law 4). -/
theorem sbx_independent {s t : State} (hFs : FieldInv s) (hFt : FieldInv t) (hs : s.status.ftv = true)
    (ht : t.status.ftv = true) (hmat : s.mat = t.mat) (hconst : s.const = t.const) (hctrl : s.ctrl = t.ctrl)
    (x : Byte) : sbx s x = sbx t x := by
  obtain ⟨hg, hT⟩ := hFs.valid hs
  obtain ⟨hg', hT'⟩ := hFt.valid ht
  rw [sbx, sbx, inv0_eq, inv0_eq, inv0_independent hg hT hg' hT', hmat, hconst, hctrl]

/-! ### The report of a failed permutation check (R168) -/

section Report

variable (t : Cells Byte 256)

/-- Each duplicated value uses at least two of the 256 entries. -/
theorem dupcnt_le : Spec.dupcnt (cellAt t) ≤ 128 := by
  have hbytes : Fintype.card Byte = 256 := by
    rw [← Finset.card_univ, ← toFinset_bytes, List.toFinset_card_of_nodup nodup_bytes, length_bytes]
  have hall : ∑ v, Spec.mult (cellAt t) v = 256 := by
    rw [← hbytes, ← Finset.card_univ]
    exact (Finset.card_eq_sum_card_fiberwise fun _ _ => Finset.mem_coe.mpr (Finset.mem_univ _)).symm
  have htwo : Spec.dupcnt (cellAt t) * 2 ≤ ∑ v, Spec.mult (cellAt t) v :=
    calc Spec.dupcnt (cellAt t) * 2
        ≤ ∑ v ∈ Finset.univ.filter fun v => 2 ≤ Spec.mult (cellAt t) v, Spec.mult (cellAt t) v :=
          Finset.card_nsmul_le_sum _ _ 2 fun v hv => (Finset.mem_filter.mp hv).2
      _ ≤ ∑ v, Spec.mult (cellAt t) v := Finset.sum_le_univ_sum_of_nonneg fun _ => Nat.zero_le _
  omega

variable {t}

theorem dupcnt_pos (h : ¬ Spec.Permutation (cellAt t)) : 1 ≤ Spec.dupcnt (cellAt t) := by
  obtain ⟨v, hv⟩ := exists_duplicate t h
  exact Finset.card_pos.mpr ⟨v, by simpa using hv⟩

/-- The two fields of the reported word do not run into each other. -/
theorem dupinfo_fields (h : ¬ Spec.Permutation (cellAt t)) :
    (dupinfo t).toNat / 256 = Spec.dupcnt (cellAt t) ∧ Spec.IsDupval (cellAt t) (Spec.low8 (dupinfo t)) := by
  obtain ⟨v, hv, hw⟩ := dupinfo_isDupinfo t h
  have hnat : (dupinfo t).toNat = Spec.dupcnt (cellAt t) * 256 + v.toNat := by
    have := dupcnt_le t
    rw [hw, BitVec.toNat_ofNat]
    omega
  have hlow : Spec.low8 (dupinfo t) = v := by
    apply BitVec.eq_of_toNat_eq
    rw [Spec.low8, hnat, BitVec.toNat_ofNat]
    omega
  exact ⟨by omega, hlow ▸ hv⟩

end Report

/-! ### The pseudocode of each command in the rules' words (R162 to R167) -/

theorem mrowEffect_of_row_ge {row : Sel} (h : 8 ≤ row.toNat) (rs1 : RegNum) (s : State) :
    mrowEffect row rs1 s = .raise .validationError (BitVec.ofNat 32 row.toNat) := by
  rw [mrowEffect, dif_neg (not_lt.mpr h), BitVec.ofNat_toNat]

theorem mrowEffect_of_value_gt {row : Sel} {rs1 : RegNum} {s : State} (h : row.toNat < 8)
    (hv : 255 < (s.reg rs1).toNat) : mrowEffect row rs1 s = .raise .validationError (s.reg rs1) := by
  simp only [mrowEffect, dif_pos h, asByte_gt hv]

theorem mrowEffect_of_le {row : Sel} {rs1 : RegNum} {s : State} (h : row.toNat < 8)
    (hv : (s.reg rs1).toNat ≤ 255) :
    mrowEffect row rs1 s = .respond 0#32 (s.writeMat ⟨row.toNat, h⟩ (Spec.low8 (s.reg rs1))) := by
  simp only [mrowEffect, dif_pos h, asByte_le hv, setWidth8_eq_low8]

theorem mconstEffect_of_gt {rs1 : RegNum} {s : State} (hv : 255 < (s.reg rs1).toNat) :
    mconstEffect rs1 s = .raise .validationError (s.reg rs1) := by
  simp only [mconstEffect, asByte_gt hv]

theorem mconstEffect_of_le {rs1 : RegNum} {s : State} (hv : (s.reg rs1).toNat ≤ 255) :
    mconstEffect rs1 s = .respond 0#32 { s with const := Spec.low8 (s.reg rs1) } := by
  simp only [mconstEffect, asByte_le hv, setWidth8_eq_low8]

theorem matvEffect_eq (rd rs1 : RegNum) (s : State) :
    matvEffect rd rs1 s = respondInto s rd (Spec.zext (matv s.mat s.ctrl (Spec.low8 (s.reg rs1)))) := by
  rw [matvEffect, zext32_eq, regByte_eq]

theorem affEffect_eq (rd rs1 : RegNum) (s : State) :
    affEffect rd rs1 s
      = respondInto s rd (Spec.zext (matv s.mat s.ctrl (Spec.low8 (s.reg rs1)) ^^^ s.const)) := by
  rw [affEffect, zext32_eq, regByte_eq, affine]

theorem sbuildEffect_of_not_ready {s : State} (h : s.status.ftv = false) :
    sbuildEffect s = .raise .fieldNotReady 0#32 := needField_of_not_ready h _

theorem sbuildEffect_of_permutation {s : State} (h : s.status.ftv = true)
    (hp : Spec.Permutation (cellAt (byteTable (sbx s)))) :
    sbuildEffect s = .respond 0#32 { s.sboxChanged true with sbox := byteTable (sbx s) } := by
  rw [sbuildEffect, needField_of_ready h]
  exact if_pos ((isPermutation_iff _).mpr hp)

theorem sbuildEffect_of_not_permutation {s : State} (h : s.status.ftv = true)
    (hp : ¬ Spec.Permutation (cellAt (byteTable (sbx s)))) :
    sbuildEffect s = .raise .nonBijectiveResult (dupinfo (byteTable (sbx s))) := by
  rw [sbuildEffect, needField_of_ready h]
  exact if_neg ((isPermutation_iff _).not.mpr hp)

theorem sbchkEffect_of_permutation {s : State} (hp : Spec.Permutation (cellAt s.sbox)) :
    sbchkEffect s = .respond 0#32 { s with status := { s.status with sbv := true } } :=
  if_pos ((isPermutation_iff _).mpr hp)

theorem sbchkEffect_of_not_permutation {s : State} (hp : ¬ Spec.Permutation (cellAt s.sbox)) :
    sbchkEffect s = .raise .nonBijectiveResult (dupinfo s.sbox) :=
  if_neg ((isPermutation_iff _).not.mpr hp)

/-! ### The commands and the laws -/

/-- Settles O52: `inv0` and the XOR with `CONST` are permutations, and `matv` is additive and fixed by the bits of
its rows. -/
theorem sboxBuilderLaws : Obligations.SboxBuilderLaws := by
  refine ⟨fun mat ctrl => ⟨matv_isMatv mat ctrl, ?_, ?_⟩, sbx_zero, fun s => ?_, ?_, ?_, fun s t => ?_⟩
  · exact matv_xorAdditive mat ctrl
  · exact (matv_xorAdditive mat ctrl).map_zero
  · exact permutation_sbx_iff
  · exact fun mat mat' ctrl ctrl' v hmat hrord hone hzero => matv_reverse_bits hmat hrord hone hzero v
  · exact fun mat mat' ctrl ctrl' v hmat hbord hone hzero => matv_reverse_rows hmat hbord hone hzero v
  · exact sbx_independent

/-- Settles O53: a table that is no permutation has a duplicated value, and there are at most 128 of them, so the
two fields of the report are apart. -/
theorem permutationCheck : Obligations.PermutationCheck := fun T =>
  ⟨isPermutation_iff T, fun h => ⟨dupinfo_isDupinfo T h, dupcnt_pos h, dupcnt_le T, dupinfo_fields h⟩⟩

/-- Settles O14, by the row number and then by the value. -/
theorem mrowWritesRow : Obligations.MrowWritesRow := by
  intro row rs1 s
  refine ⟨formatX_eq_wordX _ 0 _ 0 _, fun herr hrow => ?_, fun herr hrow hv => ?_, fun herr hrow hv => ?_,
    fun herr => ?_⟩
  · exact exec_raise (e := .validationError) (.inl herr) (mrowEffect_of_row_ge hrow rs1 s)
  · exact exec_raise (e := .validationError) (.inl herr) (mrowEffect_of_value_gt hrow hv)
  · refine ⟨s.mat.set ⟨row.toNat, hrow⟩ (Spec.low8 (s.reg rs1)), fun i => ?_,
      exec_respond (.inl herr) (mrowEffect_of_le hrow hv)⟩
    simp only [Cells.get_set, Fin.ext_iff]
  · exact exec_refused herr (by simp [encode, runsWhileBlocked])

/-- Settles O15, by the value. -/
theorem mconstWritesConstant : Obligations.MconstWritesConstant := by
  intro rs1 s
  refine ⟨formatX_eq_wordX _ 0 _ 0 _, fun herr hv => ?_, fun herr hv => ?_, fun herr => ?_⟩
  · exact exec_raise (e := .validationError) (.inl herr) (mconstEffect_of_gt hv)
  · exact exec_respond (.inl herr) (mconstEffect_of_le hv)
  · exact exec_refused herr (by simp [encode, runsWhileBlocked])

/-- Settles O16: the product the machine computes is the one of R161. -/
theorem matvMultiplies : Obligations.MatvMultiplies := by
  intro rd rs1 s
  refine ⟨formatX_eq_wordX _ _ _ 0 _, fun herr => ?_, fun herr => ?_⟩
  · exact ⟨_, matv_isMatv _ _ _, exec_respond (.inl herr) (matvEffect_eq rd rs1 s)⟩
  · exact exec_refused herr (by simp [encode, runsWhileBlocked])

/-- Settles O17: the result XORed with `CONST` again is the product of R161. -/
theorem affTransforms : Obligations.AffTransforms := by
  intro rd rs1 s
  refine ⟨formatX_eq_wordX _ _ _ 0 _, fun herr => ?_, fun herr => ?_⟩
  · refine ⟨_, ?_, exec_respond (.inl herr) (affEffect_eq rd rs1 s)⟩
    rw [xor_cancel_right]
    exact matv_isMatv _ _ _
  · exact exec_refused herr (by simp [encode, runsWhileBlocked])

/-- Settles O18, by `FTV` and then by the permutation check of the table of `sbx`. -/
theorem sbuildBuildsOrRaises : Obligations.SbuildBuildsOrRaises := by
  refine ⟨rfl, fun s => ⟨fun herr hftv => ?_, ⟨byteTable (sbx s), fun x => ?_, fun herr hftv hp => ?_,
    fun herr hftv hp => ?_⟩, fun herr => ?_⟩⟩
  · exact exec_raise (e := .fieldNotReady) (.inl herr) (sbuildEffect_of_not_ready hftv)
  · rw [cellAt_byteTable]
    exact sbx_isSbx s x
  · exact exec_respond (.inl herr) (sbuildEffect_of_permutation hftv hp)
  · exact ⟨_, dupinfo_isDupinfo _ hp,
      exec_raise (e := .nonBijectiveResult) (.inl herr) (sbuildEffect_of_not_permutation hftv hp)⟩
  · exact exec_refused herr (by simp [encode, runsWhileBlocked])

/-- Settles O19, by the permutation check of the stored table. -/
theorem sbchkChecksTable : Obligations.SbchkChecksTable := by
  refine ⟨rfl, fun s => ⟨fun herr hp => ?_, fun herr hp => ?_, fun herr => ?_⟩⟩
  · exact exec_respond (.inl herr) (sbchkEffect_of_permutation hp)
  · exact ⟨_, dupinfo_isDupinfo _ hp,
      exec_raise (e := .nonBijectiveResult) (.inl herr) (sbchkEffect_of_not_permutation hp)⟩
  · exact exec_refused herr (by simp [encode, runsWhileBlocked])

end Sys2Proof.Machine

/-! ## Spectral Analyzer (42_spectral.md R180 to R184), and what the parts of a report say about one another (R222)

A Walsh value is twice a LAT count less 256, so the nonlinearity of a selector is 128 less its greatest bias; of a
permutation the input mask 0 adds no bias, which is why `LAP` and `NLSET` answer the same question. The other
relations count inputs: `x` and `x XOR dx` have the same output difference, and a flip of an input bit of a
permutation changes the output. -/

namespace Sys2Proof.Spec

/-! ### Least and greatest values over a set -/

section Extrema

variable {α : Type} {s : Finset α} {g : α → Nat} {m : Nat}

theorem IsMin.exists_eq (h : IsMin s g m) : ∃ a ∈ s, g a = m := by
  obtain ⟨a, ha, hm⟩ := h.1
  exact ⟨a, Finset.mem_coe.mp ha, hm⟩

theorem IsMax.exists_eq (h : IsMax s g m) : ∃ a ∈ s, g a = m := by
  obtain ⟨a, ha, hm⟩ := h.1
  exact ⟨a, Finset.mem_coe.mp ha, hm⟩

theorem IsMin.le (h : IsMin s g m) {a : α} (ha : a ∈ s) : m ≤ g a :=
  h.2 (Set.mem_image_of_mem g (Finset.mem_coe.mpr ha))

theorem IsMax.ge (h : IsMax s g m) {a : α} (ha : a ∈ s) : g a ≤ m :=
  h.2 (Set.mem_image_of_mem g (Finset.mem_coe.mpr ha))

/-- The greatest value over a product of sets stands at a pair of their elements. -/
theorem IsMax.exists_eq_prod {β : Type} {t : Finset β} {g : α × β → Nat} (h : IsMax (s ×ˢ t) g m) :
    ∃ a ∈ s, ∃ b ∈ t, g (a, b) = m := by
  obtain ⟨⟨a, b⟩, hab, hm⟩ := h.exists_eq
  obtain ⟨ha, hb⟩ := Finset.mem_product.mp hab
  exact ⟨a, ha, b, hb, hm⟩

theorem IsMax.ge_prod {β : Type} {t : Finset β} {g : α × β → Nat} (h : IsMax (s ×ˢ t) g m) {a : α} {b : β}
    (ha : a ∈ s) (hb : b ∈ t) : g (a, b) ≤ m :=
  h.ge (Finset.mk_mem_product ha hb)

end Extrema

theorem mem_nonzero (b : Byte) : b ∈ nonzero ↔ b ≠ 0#8 := Finset.mem_filter_univ b

end Sys2Proof.Spec

namespace Sys2Proof.Machine

/-! ### Commands that need a checked S-box -/

theorem needSbox_of_ready {s : State} (h : s.status.sbv = true) (rest : State → Effect) :
    needSbox s rest = rest s := if_pos h

theorem needSbox_of_not_ready {s : State} (h : s.status.sbv = false) (rest : State → Effect) :
    needSbox s rest = .raise .sboxNotValid 0#32 := if_neg (by simp [h])

/-! ### The reports of nonlinearities (R183, R184) -/

/-- A least or greatest value of `g` fits a register when all values of `g` do. -/
theorem natWord_toNat_of_mem {α : Type} {s : Finset α} {g : α → Nat} {m : Nat} (hg : ∀ a, g a < 2 ^ 32)
    (h : m ∈ g '' ↑s) : (natWord m).toNat = m := by
  obtain ⟨a, -, rfl⟩ := h
  exact natWord_toNat (hg a)

theorem nl_le (S : Byte → Byte) (b : Byte) : Spec.nl S b ≤ 128 := Nat.sub_le _ _

theorem nl_lt (S : Byte → Byte) (b : Byte) : Spec.nl S b < 2 ^ 32 := (nl_le S b).trans_lt (by norm_num)

theorem sum_nl_le {α : Type} (S : Byte → Byte) (s : Finset α) (sel : α → Byte) :
    ∑ a ∈ s, Spec.nl S (sel a) ≤ s.card * 128 :=
  Finset.sum_le_card_nsmul _ _ _ fun a _ => nl_le S (sel a)

/-- What `NLSET` writes is the report of R183. -/
theorem isNlReport_writeNl (s : State) : Spec.IsNlReport (cellAt s.sbox) (writeNl s).bankA := by
  have hmin := isMin_minOf (Spec.nl (cellAt s.sbox)) mem_nonzeroBytes_iff nonzeroBytes_ne_nil
  have hmax := isMax_maxOf (Spec.nl (cellAt s.sbox)) mem_nonzeroBytes_iff nonzeroBytes_ne_nil
  have hsum := sum_nl_le (cellAt s.sbox) Spec.nonzero fun b => b
  rw [card_nonzero] at hsum
  simp only [Spec.IsNlReport, writeNl_bankA, nlValues, nl_eq_fun, sum_map_nonzeroBytes,
    natWord_toNat_of_mem (nl_lt _) hmin.1, natWord_toNat_of_mem (nl_lt _) hmax.1]
  exact ⟨hmin, hmax, natWord_toNat (by omega)⟩

theorem card_pairs : Spec.pairs.card = 28 := by decide

/-- What `BICNL` writes is the report of R184. -/
theorem isBnReport_writeBicnl (s : State) : Spec.IsBnReport (cellAt s.sbox) (writeBicnl s).bankA := by
  have hmin := isMin_bitPairs fun p => Spec.nl (cellAt s.sbox) (pairSelector p)
  have hmax := isMax_bitPairs fun p => Spec.nl (cellAt s.sbox) (pairSelector p)
  have hsum := sum_nl_le (cellAt s.sbox) Spec.pairs Spec.selector
  rw [card_pairs] at hsum
  simp only [Spec.IsBnReport, writeBicnl_bankA, bicNlValues, nl_eq_fun, sum_map_bitPairs,
    natWord_toNat_of_mem (fun _ => nl_lt _ _) hmin.1, natWord_toNat_of_mem (fun _ => nl_lt _ _) hmax.1]
  simp only [pairSelector_fin] at hmin hmax ⊢
  exact ⟨hmin, hmax, natWord_toNat (by omega)⟩

/-! ### The pseudocode of each command in the rules' words (R182 to R184) -/

theorem whtEffect_of_not_ready {s : State} (h : s.status.sbv = false) (rd rs1 : RegNum) :
    whtEffect rd rs1 s = .raise .sboxNotValid 0#32 := needSbox_of_not_ready h _

theorem whtEffect_of_ready {s : State} (h : s.status.sbv = true) (rd rs1 : RegNum) :
    whtEffect rd rs1 s = respondInto
      { s with
        ws := byteTable (walsh s.sbox (Spec.low8 (s.reg rs1)))
        wstag := Spec.low8 (s.reg rs1)
        status := { s.status with wsv := true } }
      rd (BitVec.ofNat 32 (Spec.nl (cellAt s.sbox) (Spec.low8 (s.reg rs1)))) := by
  simp only [whtEffect, needSbox_of_ready h, regByte_eq, nl_eq, natWord]

theorem nlsetEffect_of_not_ready {s : State} (h : s.status.sbv = false) :
    nlsetEffect s = .raise .sboxNotValid 0#32 := needSbox_of_not_ready h _

theorem nlsetEffect_of_ready {s : State} (h : s.status.sbv = true) :
    nlsetEffect s = .respond (writeNl s).bankA.nlMin (writeNl s) := needSbox_of_ready h _

theorem bicnlEffect_of_not_ready {s : State} (h : s.status.sbv = false) :
    bicnlEffect s = .raise .sboxNotValid 0#32 := needSbox_of_not_ready h _

theorem bicnlEffect_of_ready {s : State} (h : s.status.sbv = true) :
    bicnlEffect s = .respond (writeBicnl s).bankA.bnMin (writeBicnl s) := needSbox_of_ready h _

/-! ### The commands -/

/-- Settles O20, by `SBV`: the cells are the machine's Walsh values, which are those of R181. -/
theorem whtComputesSpectrum : Obligations.WhtComputesSpectrum := by
  intro rd rs1 s
  refine ⟨formatX_eq_wordX _ _ _ 0 _, fun herr hsbv => ?_, fun herr hsbv => ?_, fun herr => ?_⟩
  · exact exec_raise (e := .sboxNotValid) (.inl herr) (whtEffect_of_not_ready hsbv rd rs1)
  · refine ⟨byteTable (walsh s.sbox (Spec.low8 (s.reg rs1))), fun a => ?_,
      exec_respond (.inl herr) (whtEffect_of_ready hsbv rd rs1)⟩
    rw [cellAt_byteTable, walsh_eq]
  · exact exec_refused herr (by simp [encode, runsWhileBlocked])

/-- Settles O21, by `SBV`: what the command writes is the report of R183. -/
theorem nlsetReportsNonlinearity : Obligations.NlsetReportsNonlinearity := by
  refine ⟨rfl, fun s => ⟨fun herr hsbv => ?_, fun herr hsbv => ?_, fun herr => ?_⟩⟩
  · exact exec_raise (e := .sboxNotValid) (.inl herr) (nlsetEffect_of_not_ready hsbv)
  · obtain ⟨hmin, hmax, hsum⟩ := isNlReport_writeNl s
    exact ⟨_, _, _, hmin, hmax, hsum, exec_respond (.inl herr) (nlsetEffect_of_ready hsbv)⟩
  · exact exec_refused herr (by simp [encode, runsWhileBlocked])

/-- Settles O22, by `SBV`: what the command writes is the report of R184. -/
theorem bicnlReportsPairs : Obligations.BicnlReportsPairs := by
  refine ⟨rfl, fun s => ⟨fun herr hsbv => ?_, fun herr hsbv => ?_, fun herr => ?_⟩⟩
  · exact exec_raise (e := .sboxNotValid) (.inl herr) (bicnlEffect_of_not_ready hsbv)
  · obtain ⟨hmin, hmax, hsum⟩ := isBnReport_writeBicnl s
    exact ⟨_, _, _, hmin, hmax, hsum, exec_respond (.inl herr) (bicnlEffect_of_ready hsbv)⟩
  · exact exec_refused herr (by simp [encode, runsWhileBlocked])

/-! ### Counting over the bytes -/

theorem card_univ_byte : (Finset.univ : Finset Byte).card = 256 := by
  rw [Finset.card_univ, ← FinEnum.card_eq_fintypeCard, FinEnum.card_bitVec]
  norm_num

/-- Every number of bytes is at most 256. -/
theorem card_byte_le (s : Finset Byte) : s.card ≤ 256 :=
  card_univ_byte ▸ Finset.card_le_univ s

/-- A set that the XOR with a non-zero byte maps to itself splits into pairs `x`, `x XOR c`. -/
theorem even_card_of_xor_mem {s : Finset Byte} {c : Byte} (hc : c ≠ 0#8) (h : ∀ x ∈ s, x ^^^ c ∈ s) :
    Even s.card := by
  have hsum : ∑ _x ∈ s, (1 : ZMod 2) = 0 :=
    Finset.sum_involution (fun x _ => x ^^^ c) (fun _ _ => by decide)
      (fun x _ _ hx => hc (by rw [← xor_cancel_left x c, hx, BitVec.xor_self])) h
      (fun x _ => xor_cancel_right x c)
  rw [← ZMod.natCast_eq_zero_iff_even, ← hsum, Finset.cast_card]

/-- A condition that the XOR with some byte negates holds for half of the bytes. -/
theorem card_of_xor_negates {p : Byte → Bool} {c : Byte} (h : ∀ x, p (x ^^^ c) = !p x) :
    (Finset.univ.filter fun x => p x = false).card = 128 := by
  have hswap : (Finset.univ.filter fun x => p x = false).card
      = (Finset.univ.filter fun x => ¬ p x = false).card :=
    Finset.card_bij' (fun x _ => x ^^^ c) (fun x _ => x ^^^ c) (by simp [h]) (by simp [h])
      (fun x _ => xor_cancel_right x c) (fun x _ => xor_cancel_right x c)
  have hall := Finset.card_filter_add_card_filter_not (s := Finset.univ) fun x : Byte => p x = false
  rw [card_univ_byte] at hall
  omega

/-! ### Linear functions (R180) -/

theorem parity_and_xor (b x y : Byte) :
    Spec.parity (b &&& (x ^^^ y)) = (Spec.parity (b &&& x) ^^ Spec.parity (b &&& y)) := by
  simp only [Spec.parity, BitVec.getLsbD_and, BitVec.getLsbD_xor, Bool.and_xor_distrib_left, odd_xor]

theorem parity_and_bit : ∀ (b : Byte) (i : Fin 8), Spec.parity (b &&& Spec.bit i) = b.getLsbD i.val := by
  decide +kernel

theorem exists_getLsbD : ∀ v : Byte, v ≠ 0#8 → ∃ i : Fin 8, v.getLsbD i.val = true := by decide +kernel

/-- A non-zero linear function is balanced. -/
theorem card_parity_and {b : Byte} (hb : b ≠ 0#8) :
    (Finset.univ.filter fun x => Spec.parity (b &&& x) = false).card = 128 := by
  obtain ⟨i, hi⟩ := exists_getLsbD b hb
  exact card_of_xor_negates (c := Spec.bit i) fun x => by rw [parity_and_xor, parity_and_bit, hi, Bool.xor_true]

/-! ### LAT counts (R219) and Walsh values (R181) -/

section Table

variable (S : Byte → Byte)

/-- The agreements of two functions count one up and the differences one down (R185 law 5). -/
theorem walsh_eq_lat (a b : Byte) : Spec.walsh S b a = 2 * (Spec.lat S a b : Int) - 256 := by
  have hterm (p q : Bool) : (if (p ^^ q) = false then (1 : Int) else -1) = 2 * (if q = p then 1 else 0) - 1 := by
    cases p <;> cases q <;> rfl
  have hlat : Spec.lat S a b = (Finset.univ.filter fun x => Spec.parity (a &&& x) = Spec.f S b x).card := rfl
  simp only [Spec.walsh, hterm, hlat, Finset.sum_sub_distrib, ← Finset.mul_sum, Finset.sum_boole,
    Finset.sum_const, card_univ_byte, nsmul_eq_mul, mul_one, Nat.cast_ofNat]

theorem lat_le (a b : Byte) : Spec.lat S a b ≤ 256 := card_byte_le _

theorem natAbs_walsh (a b : Byte) : (Spec.walsh S b a).natAbs = 2 * Spec.bias S a b := by
  rw [walsh_eq_lat, Spec.bias]
  omega

theorem bias_le (a b : Byte) : Spec.bias S a b ≤ 128 := by
  have := lat_le S a b
  rw [Spec.bias]
  omega

/-- The nonlinearity of a selector is 128 less its greatest bias (R181, R221). -/
theorem nl_eq_sup_bias (b : Byte) : Spec.nl S b = 128 - Finset.univ.sup fun a => Spec.bias S a b := by
  have hmax : Spec.maxw S b = 2 * Finset.univ.sup fun a => Spec.bias S a b := by
    simp only [Spec.maxw, natAbs_walsh]
    exact (Finset.apply_sup_eq_sup_comp (2 * ·) (fun _ _ => by simp [Nat.mul_max_mul_left]) rfl).symm
  rw [Spec.nl, hmax]
  omega

theorem nl_add_bias_le (a b : Byte) : Spec.nl S b + Spec.bias S a b ≤ 128 := by
  have hle : Spec.bias S a b ≤ Finset.univ.sup fun a => Spec.bias S a b :=
    Finset.le_sup (f := fun a => Spec.bias S a b) (Finset.mem_univ a)
  have hsup : (Finset.univ.sup fun a => Spec.bias S a b) ≤ 128 := Finset.sup_le fun a _ => bias_le S a b
  rw [nl_eq_sup_bias]
  omega

theorem exists_nl_add_bias (b : Byte) : ∃ a, Spec.nl S b + Spec.bias S a b = 128 := by
  obtain ⟨a, -, ha⟩ := Finset.exists_mem_eq_sup Finset.univ Finset.univ_nonempty fun a => Spec.bias S a b
  have := bias_le S a b
  refine ⟨a, ?_⟩
  rw [nl_eq_sup_bias, ha]
  omega

/-! ### DDT counts (R216) -/

theorem ddt_le (dx dy : Byte) : Spec.ddt S dx dy ≤ 256 := card_byte_le _

/-- Each input has one output difference. -/
theorem sum_ddt (dx : Byte) : ∑ dy, Spec.ddt S dx dy = 256 := by
  rw [← card_univ_byte]
  exact (Finset.card_eq_sum_card_fiberwise fun _ _ => Finset.mem_coe.mpr (Finset.mem_univ _)).symm

/-- The inputs `x` and `x XOR dx` have the same output difference. -/
theorem even_ddt {dx : Byte} (hdx : dx ≠ 0#8) (dy : Byte) : Even (Spec.ddt S dx dy) := by
  refine even_card_of_xor_mem hdx fun x hx => ?_
  simp only [Finset.mem_filter, Finset.mem_univ, true_and] at hx ⊢
  rw [xor_cancel_right, BitVec.xor_comm, hx]

theorem ddt_self_pos (dx x : Byte) : 0 < Spec.ddt S dx (S (x ^^^ dx) ^^^ S x) :=
  Finset.card_pos.mpr ⟨x, by simp⟩

end Table

/-! ### Tables that are permutations -/

section Permutation

variable {S : Byte → Byte} (hS : Function.Injective S)

include hS

/-- The component functions of a permutation are balanced (R185 law 3). -/
theorem lat_zero_left {b : Byte} (hb : b ≠ 0#8) : Spec.lat S 0#8 b = 128 := by
  rw [Spec.lat, ← card_parity_and hb]
  have hzero (x : Byte) : Spec.parity (0#8 &&& x) = false := by rw [BitVec.zero_and]; decide
  refine Finset.card_bijective S (Finite.injective_iff_bijective.mp hS) fun x => ?_
  rw [Finset.mem_filter_univ, Finset.mem_filter_univ, hzero, eq_comm]

theorem bias_zero_left {b : Byte} (hb : b ≠ 0#8) : Spec.bias S 0#8 b = 0 := by
  rw [Spec.bias, lat_zero_left hS hb]
  rfl

/-- A flip of an input bit changes some output bit. -/
theorem dflip_ne_zero (j : Fin 8) (x : Byte) : Spec.dflip S j x ≠ 0#8 := by
  have hbit : ∀ j : Fin 8, Spec.bit j ≠ 0#8 := by decide
  intro h
  have hx : x = x ^^^ Spec.bit j := hS (BitVec.xor_eq_zero_iff.mp h)
  exact hbit j (by rw [← xor_cancel_left x (Spec.bit j), ← hx, BitVec.xor_self])

theorem one_le_card_dflip (j : Fin 8) (x : Byte) :
    1 ≤ (Finset.univ.filter fun i : Fin 8 => (Spec.dflip S j x).getLsbD i.val = true).card := by
  obtain ⟨i, hi⟩ := exists_getLsbD _ (dflip_ne_zero hS j x)
  exact Finset.card_pos.mpr ⟨i, by simpa using hi⟩

/-- One row of `SACM`: each of the 256 inputs changes at least one output bit. -/
theorem le_sum_sac (j : Fin 8) : 256 ≤ ∑ i, Spec.sac S j i := by
  calc 256 = ∑ _x : Byte, 1 := by rw [Finset.sum_const, card_univ_byte, smul_eq_mul]
    _ ≤ ∑ x : Byte, (Finset.univ.filter fun i : Fin 8 => (Spec.dflip S j x).getLsbD i.val = true).card :=
        Finset.sum_le_sum fun x _ => one_le_card_dflip hS j x
    _ = ∑ i, Spec.sac S j i :=
        Finset.sum_card_bipartiteAbove_eq_sum_card_bipartiteBelow fun x (i : Fin 8) =>
          (Spec.dflip S j x).getLsbD i.val = true

/-! ### What the parts of a report say about one another (R184, R202, R222) -/

/-- `LAP_MAX = 128 - NL_MIN` (R222 law 5). The nonlinearity of a selector also takes in the input mask 0, which
`LAP` leaves out; there the bias of a permutation is 0. -/
theorem lapMax_add_nlMin {r : Report} (hlap : Spec.IsLapReport S r) (hnl : Spec.IsNlReport S r) :
    r.lapMax.toNat + r.nlMin.toNat = 128 := by
  obtain ⟨hmin, -, -⟩ := hnl
  apply Nat.le_antisymm
  · obtain ⟨a, -, b, hb, hmax⟩ := hlap.exists_eq_prod
    have hle := hmin.le hb
    have hsum := nl_add_bias_le S a b
    dsimp only at hmax
    omega
  · obtain ⟨b, hb, hnl⟩ := hmin.exists_eq
    obtain ⟨a, hsum⟩ := exists_nl_add_bias S b
    have hbias : Spec.bias S a b ≤ r.lapMax.toNat := by
      by_cases ha : a = 0#8
      · rw [ha, bias_zero_left hS ((Spec.mem_nonzero b).mp hb)]
        exact Nat.zero_le _
      · exact hlap.ge_prod ((Spec.mem_nonzero a).mpr ha) hb
    omega

/-- The 64 SAC counts of a permutation sum to at least 8 * 256 (R202). -/
theorem le_sacSum {r : Report} {m : Cells Nat 64} (hsac : Spec.IsSacReport S m r) : 2048 ≤ r.sacSum.toNat := by
  obtain ⟨-, hsum⟩ := hsac
  rw [hsum]
  simpa using Finset.card_nsmul_le_sum Finset.univ _ 256 fun j _ => le_sum_sac hS j

end Permutation

section Table

variable {S : Byte → Byte} {r : Report}

/-- The pairs of output bits are among the non-zero selectors (R184). -/
theorem nl_bn_bounds (hnl : Spec.IsNlReport S r) (hbn : Spec.IsBnReport S r) :
    r.nlMin.toNat ≤ r.bnMin.toNat ∧ r.bnMax.toNat ≤ r.nlMax.toNat := by
  obtain ⟨hnlMin, hnlMax, -⟩ := hnl
  obtain ⟨hbnMin, hbnMax, -⟩ := hbn
  obtain ⟨p, hp, hpMin⟩ := hbnMin.exists_eq
  obtain ⟨q, hq, hqMax⟩ := hbnMax.exists_eq
  rw [← hpMin, ← hqMax]
  exact ⟨hnlMin.le ((Spec.mem_nonzero _).mpr (selector_ne_zero hp)),
    hnlMax.ge ((Spec.mem_nonzero _).mpr (selector_ne_zero hq))⟩

/-- `DAP_MAX` is a DDT count, so even and at most 256, and at least the count of an output difference that occurs
(R218, R222 law 5). -/
theorem dapMax_bounds (hdap : Spec.IsDapReport S r) :
    2 ≤ r.dapMax.toNat ∧ r.dapMax.toNat ≤ 256 ∧ Even r.dapMax.toNat := by
  obtain ⟨dx, hdx, dy, -, hmax⟩ := hdap.exists_eq_prod
  have heven : Even r.dapMax.toNat := hmax ▸ even_ddt S ((Spec.mem_nonzero dx).mp hdx) dy
  have hpos : 0 < r.dapMax.toNat :=
    (ddt_self_pos S dx 0#8).trans_le (hdap.ge_prod hdx (Finset.mem_univ _))
  exact ⟨Nat.le_of_dvd hpos heven.two_dvd, hmax ▸ ddt_le S dx dy, heven⟩

end Table

theorem State.Inv.sbox_injective {s : State} (hinv : s.Inv) (hsbv : s.status.sbv = true) :
    Function.Injective (cellAt s.sbox) :=
  (permutation_iff_injective _).mp (hinv.sbox hsbv)

/-- Settles O58: the values behind the valid bits of a good state are those of the formulas, and the S-box is then a
permutation. -/
theorem reportRelations : Obligations.ReportRelations := by
  intro s hinv
  refine ⟨fun hlap hnl => ?_, fun hdap => ?_, fun hnl hbn => ?_, fun hsac => ?_, fun hdrv => ?_,
    fun hwsv hlcv htag a => ?_⟩
  · exact lapMax_add_nlMin (hinv.sbox_injective (hinv.validBits (by simp [hlap]))) (hinv.derived.lap hlap)
      (hinv.derived.nl hnl)
  · exact dapMax_bounds (hinv.derived.dap hdap)
  · exact nl_bn_bounds (hinv.derived.nl hnl) (hinv.derived.bn hbn)
  · exact le_sacSum (hinv.sbox_injective (hinv.validBits (by simp [hsac]))) (hinv.derived.sac hsac)
  · simp only [hinv.derived.dr hdrv, sum_ddt]
  · rw [hinv.derived.ws hwsv, hinv.derived.lc hlcv, htag, walsh_eq_lat]
    omega

end Sys2Proof.Machine

/-! ## Avalanche Analyzer (43_avalanche.md R200 to R204)

Every count runs over the 256 bytes, so it is at most 256. The sums of 64 counts and of 28 pair sums are then far
below 2^32, and the report registers hold them exactly. -/

namespace Sys2Proof.Machine

/-! ### The counts and their sums are bounded (R201 to R204) -/

section Bounds

variable (S : Byte → Byte)

theorem sac_le (j i : Fin 8) : Spec.sac S j i ≤ 256 := card_byte_le _

/-- The 64 SAC counts sum to at most 64 * 256 (R202). -/
theorem sum_sac_le : ∑ j, ∑ i, Spec.sac S j i ≤ 16384 :=
  Finset.sum_le_card_nsmul Finset.univ _ 2048 fun j _ =>
    Finset.sum_le_card_nsmul Finset.univ _ 256 fun i _ => sac_le S j i

theorem bcnt_le (i k j : Fin 8) : Spec.bcnt S i k j ≤ 256 := card_byte_le _

/-- A pair sum is 0 or a sum of eight counts (R203). -/
theorem bsum_le (i k : Fin 8) : Spec.bsum S i k ≤ 2048 := by
  rw [Spec.bsum]
  split
  · exact Nat.zero_le _
  · exact Finset.sum_le_card_nsmul Finset.univ _ 256 fun j _ => bcnt_le S i k j

theorem bsum_lt (i k : Fin 8) : Spec.bsum S i k < 2 ^ 32 := (bsum_le S i k).trans_lt (by norm_num)

/-- The 28 pair sums sum to at most 28 * 2048 (R204). -/
theorem bsTotal_le : Spec.bsTotal S ≤ 57344 := by
  have hsum := Finset.sum_le_card_nsmul Spec.pairs _ 2048 fun p _ => bsum_le S p.1 p.2
  rw [card_pairs] at hsum
  exact hsum

theorem base_le (quarter : Bool) : Spec.base quarter ≤ 28672 := by
  cases quarter <;> decide

/-- The deviation is a distance of two numbers of at most 57344 (R204). -/
theorem bsDev_le (quarter : Bool) : Spec.bsDev S quarter ≤ 57344 := by
  have htotal := bsTotal_le S
  have hbase := base_le quarter
  rw [Spec.bsDev]
  omega

end Bounds

/-! ### The reports of avalanche counts (R202, R204) -/

theorem bicDeviation_eq (t : Cells Byte 256) (quarter : Bool) :
    bicDeviation (Spec.bsTotal (cellAt t)) quarter = Spec.bsDev (cellAt t) quarter := rfl

/-- What `SAC` writes is the report of R202. -/
theorem isSacReport_writeSac (s : State) :
    Spec.IsSacReport (cellAt s.sbox) (writeSac s).sacm (writeSac s).bankA := by
  have hsum := sum_sac_le (cellAt s.sbox)
  refine ⟨fun j i => ?_, ?_⟩
  · rw [writeSac_sacm, get?_pairTable, sacCount_eq]
  · simp only [writeSac_bankA, sacTotal_eq]
    exact natWord_toNat (by omega)

theorem isMin_pairSums (t : Cells Byte 256) :
    Spec.IsMin Spec.pairs (fun p => Spec.bsum (cellAt t) p.1 p.2) (minOf (pairSums t)) := by
  simpa only [pairSums, bicSum_eq] using isMin_bitPairs fun p => bicSum t p.1 p.2

theorem isMax_pairSums (t : Cells Byte 256) :
    Spec.IsMax Spec.pairs (fun p => Spec.bsum (cellAt t) p.1 p.2) (maxOf (pairSums t)) := by
  simpa only [pairSums, bicSum_eq] using isMax_bitPairs fun p => bicSum t p.1 p.2

/-- What `BICSAC` writes is the report of R204, with the baseline of `CTRL`. -/
theorem isBsReport_writeBicsac (s : State) :
    Spec.IsBsReport (cellAt s.sbox) (writeBicsac s).bsm (writeBicsac s).bankA := by
  have hmin := isMin_pairSums s.sbox
  have hmax := isMax_pairSums s.sbox
  have hsum := bsTotal_le (cellAt s.sbox)
  have hdev := bsDev_le (cellAt s.sbox) (bicBase s.ctrl)
  refine ⟨fun i k => ?_, ?_⟩
  · rw [writeBicsac_bsm, get?_pairTable, bicSum_eq]
  · simp only [writeBicsac_bankA, pairSums_sum, bicDeviation_eq,
      natWord_toNat_of_mem (fun _ => bsum_lt _ _ _) hmin.1, natWord_toNat_of_mem (fun _ => bsum_lt _ _ _) hmax.1]
    exact ⟨hmin, hmax, natWord_toNat (by omega), natWord_toNat (by omega)⟩

/-! ### The pseudocode of each command in the rules' words (R202, R204) -/

theorem sacEffect_of_not_ready {s : State} (h : s.status.sbv = false) :
    sacEffect s = .raise .sboxNotValid 0#32 := needSbox_of_not_ready h _

theorem sacEffect_of_ready {s : State} (h : s.status.sbv = true) :
    sacEffect s = .respond (writeSac s).bankA.sacSum (writeSac s) := needSbox_of_ready h _

theorem bicsacEffect_of_not_ready {s : State} (h : s.status.sbv = false) :
    bicsacEffect s = .raise .sboxNotValid 0#32 := needSbox_of_not_ready h _

theorem bicsacEffect_of_ready {s : State} (h : s.status.sbv = true) :
    bicsacEffect s = .respond (writeBicsac s).bankA.bsDev (writeBicsac s) := needSbox_of_ready h _

/-! ### The commands -/

/-- Settles O23, by `SBV`: what the command writes is the report of R202. -/
theorem sacFillsMatrix : Obligations.SacFillsMatrix := by
  refine ⟨rfl, fun s => ⟨fun herr hsbv => ?_, fun herr hsbv => ?_, fun herr => ?_⟩⟩
  · exact exec_raise (e := .sboxNotValid) (.inl herr) (sacEffect_of_not_ready hsbv)
  · obtain ⟨hcells, hsum⟩ := isSacReport_writeSac s
    exact ⟨_, _, hcells, hsum, exec_respond (.inl herr) (sacEffect_of_ready hsbv)⟩
  · exact exec_refused herr (by simp [encode, runsWhileBlocked])

/-- Settles O24, by `SBV`: what the command writes is the report of R204. -/
theorem bicsacFillsMatrix : Obligations.BicsacFillsMatrix := by
  refine ⟨rfl, fun s => ⟨fun herr hsbv => ?_, fun herr hsbv => ?_, fun herr => ?_⟩⟩
  · exact exec_raise (e := .sboxNotValid) (.inl herr) (bicsacEffect_of_not_ready hsbv)
  · obtain ⟨hcells, hmin, hmax, hsum, hdev⟩ := isBsReport_writeBicsac s
    exact ⟨_, _, _, _, _, hcells, hmin, hmax, hsum, hdev, exec_respond (.inl herr) (bicsacEffect_of_ready hsbv)⟩
  · exact exec_refused herr (by simp [encode, runsWhileBlocked])

end Sys2Proof.Machine

/-! ## Approximation Analyzer (44_approximation.md R216 to R221)

`DAP` and `LAP` take a maximum of maxima: of the DDT rows of the non-zero differences, and of the LAT columns of the
non-zero output masks. That is the greatest value over the pairs, which is how the rules write it. A DDT count is at
most 256 and a bias at most 128, so the registers hold the maxima exactly. -/

namespace Sys2Proof.Spec

/-! ### The greatest value over pairs -/

section Extrema

variable {α β : Type} {s : Finset α} {t : Finset β} {g : α → β → Nat} {m : Nat}

/-- The greatest of the greatest values of the rows is the greatest value over the pairs. -/
theorem IsMax.prod {row : α → Nat} (hrow : ∀ a, IsMax t (g a) (row a)) (h : IsMax s row m) :
    IsMax (s ×ˢ t) (fun p => g p.1 p.2) m := by
  constructor
  · obtain ⟨a, ha, ham⟩ := h.exists_eq
    obtain ⟨b, hb, hab⟩ := (hrow a).exists_eq
    exact ⟨(a, b), Finset.mem_coe.mpr (Finset.mk_mem_product ha hb), hab.trans ham⟩
  · rintro _ ⟨⟨a, b⟩, hp, rfl⟩
    obtain ⟨ha, hb⟩ := Finset.mem_product.mp (Finset.mem_coe.mp hp)
    exact ((hrow a).ge hb).trans (h.ge ha)

/-- The order of the two sets does not matter. -/
theorem IsMax.swap (h : IsMax (s ×ˢ t) (fun p => g p.1 p.2) m) : IsMax (t ×ˢ s) (fun p => g p.2 p.1) m := by
  constructor
  · obtain ⟨a, ha, b, hb, hm⟩ := h.exists_eq_prod
    exact ⟨(b, a), Finset.mem_coe.mpr (Finset.mk_mem_product hb ha), hm⟩
  · rintro _ ⟨⟨b, a⟩, hp, rfl⟩
    obtain ⟨hb, ha⟩ := Finset.mem_product.mp (Finset.mem_coe.mp hp)
    exact h.ge_prod ha hb

end Extrema

end Sys2Proof.Spec

namespace Sys2Proof.Machine

/-! ### The machine's maxima (R217, R218, R220, R221) -/

theorem ddt_lt (S : Byte → Byte) (dx dy : Byte) : Spec.ddt S dx dy < 2 ^ 32 :=
  (ddt_le S dx dy).trans_lt (by norm_num)

theorem bias_lt (S : Byte → Byte) (a b : Byte) : Spec.bias S a b < 2 ^ 32 :=
  (bias_le S a b).trans_lt (by norm_num)

theorem isMax_ddtRowMax (t : Cells Byte 256) (dx : Byte) :
    Spec.IsMax Finset.univ (Spec.ddt (cellAt t) dx) (ddtRowMax t dx) := by
  simp only [ddtRowMax, count_outputDiffs]
  exact isMax_maxOf _ (fun dy => by simp only [mem_bytes, Finset.mem_univ]) bytes_ne_nil

theorem isMax_latColumnMax (t : Cells Byte 256) (b : Byte) :
    Spec.IsMax Spec.nonzero (fun a => Spec.bias (cellAt t) a b) (latColumnMax t b) := by
  rw [latColumnMax_eq]
  exact isMax_maxOf _ mem_nonzeroBytes_iff nonzeroBytes_ne_nil

/-- What `DAP` writes is the report of R218: the rows are those of the non-zero differences. -/
theorem isDapReport_writeDap (s : State) : Spec.IsDapReport (cellAt s.sbox) (writeDap s).bankA := by
  have hmax := Spec.IsMax.prod (isMax_ddtRowMax s.sbox)
    (isMax_maxOf (ddtRowMax s.sbox) mem_nonzeroBytes_iff nonzeroBytes_ne_nil)
  rw [Spec.IsDapReport, writeDap_bankA, natWord_toNat_of_mem (fun _ => ddt_lt _ _ _) hmax.1]
  exact hmax

/-- What `LAP` writes is the report of R221: the machine goes through the columns, the rule through the pairs of an
input and an output mask. -/
theorem isLapReport_writeLap (s : State) : Spec.IsLapReport (cellAt s.sbox) (writeLap s).bankA := by
  have hmax := Spec.IsMax.swap (g := fun b a => Spec.bias (cellAt s.sbox) a b)
    (.prod (isMax_latColumnMax s.sbox)
      (isMax_maxOf (latColumnMax s.sbox) mem_nonzeroBytes_iff nonzeroBytes_ne_nil))
  rw [Spec.IsLapReport, writeLap_bankA, natWord_toNat_of_mem (fun _ => bias_lt _ _ _) hmax.1]
  exact hmax

/-! ### The pseudocode of each command in the rules' words (R217, R218, R220, R221) -/

theorem ddtrEffect_of_not_ready {s : State} (h : s.status.sbv = false) (rd rs1 : RegNum) :
    ddtrEffect rd rs1 s = .raise .sboxNotValid 0#32 := needSbox_of_not_ready h _

theorem ddtrEffect_of_ready {s : State} (h : s.status.sbv = true) (rd rs1 : RegNum) :
    ddtrEffect rd rs1 s = respondInto
      { s with
        dr := byteTable (ddt s.sbox (Spec.low8 (s.reg rs1)))
        drtag := Spec.low8 (s.reg rs1)
        status := { s.status with drv := true } }
      rd (natWord (ddtRowMax s.sbox (Spec.low8 (s.reg rs1)))) := by
  simp only [ddtrEffect, needSbox_of_ready h, regByte_eq]

theorem dapEffect_of_not_ready {s : State} (h : s.status.sbv = false) :
    dapEffect s = .raise .sboxNotValid 0#32 := needSbox_of_not_ready h _

theorem dapEffect_of_ready {s : State} (h : s.status.sbv = true) :
    dapEffect s = .respond (writeDap s).bankA.dapMax (writeDap s) := needSbox_of_ready h _

theorem latcEffect_of_not_ready {s : State} (h : s.status.sbv = false) (rd rs1 : RegNum) :
    latcEffect rd rs1 s = .raise .sboxNotValid 0#32 := needSbox_of_not_ready h _

theorem latcEffect_of_ready {s : State} (h : s.status.sbv = true) (rd rs1 : RegNum) :
    latcEffect rd rs1 s = respondInto
      { s with
        lc := byteTable fun a => lat s.sbox a (Spec.low8 (s.reg rs1))
        lctag := Spec.low8 (s.reg rs1)
        status := { s.status with lcv := true } }
      rd (natWord (latColumnMax s.sbox (Spec.low8 (s.reg rs1)))) := by
  simp only [latcEffect, needSbox_of_ready h, regByte_eq]

theorem lapEffect_of_not_ready {s : State} (h : s.status.sbv = false) :
    lapEffect s = .raise .sboxNotValid 0#32 := needSbox_of_not_ready h _

theorem lapEffect_of_ready {s : State} (h : s.status.sbv = true) :
    lapEffect s = .respond (writeLap s).bankA.lapMax (writeLap s) := needSbox_of_ready h _

/-! ### The commands -/

/-- Settles O25, by `SBV`: the cells are the machine's DDT counts, which are those of R216, and the register holds
their maximum. -/
theorem ddtrComputesRow : Obligations.DdtrComputesRow := by
  intro rd rs1 s
  refine ⟨formatX_eq_wordX _ _ _ 0 _, fun herr hsbv => ?_, fun herr hsbv => ?_, fun herr => ?_⟩
  · exact exec_raise (e := .sboxNotValid) (.inl herr) (ddtrEffect_of_not_ready hsbv rd rs1)
  · have hmax := isMax_ddtRowMax s.sbox (Spec.low8 (s.reg rs1))
    refine ⟨_, _, fun dy => ?_, ?_, exec_respond (.inl herr) (ddtrEffect_of_ready hsbv rd rs1)⟩
    · rw [cellAt_byteTable, ddt_eq]
    · rwa [natWord_toNat_of_mem (ddt_lt _ _) hmax.1]
  · exact exec_refused herr (by simp [encode, runsWhileBlocked])

/-- Settles O26, by `SBV`: what the command writes is the report of R218. -/
theorem dapReportsMaximum : Obligations.DapReportsMaximum := by
  refine ⟨rfl, fun s => ⟨fun herr hsbv => ?_, fun herr hsbv => ?_, fun herr => ?_⟩⟩
  · exact exec_raise (e := .sboxNotValid) (.inl herr) (dapEffect_of_not_ready hsbv)
  · exact ⟨_, isDapReport_writeDap s, exec_respond (.inl herr) (dapEffect_of_ready hsbv)⟩
  · exact exec_refused herr (by simp [encode, runsWhileBlocked])

/-- Settles O27, by `SBV`: the cells are the machine's LAT counts, which are those of R219, and the register holds
the greatest bias of the non-zero input masks. -/
theorem latcComputesColumn : Obligations.LatcComputesColumn := by
  intro rd rs1 s
  refine ⟨formatX_eq_wordX _ _ _ 0 _, fun herr hsbv => ?_, fun herr hsbv => ?_, fun herr => ?_⟩
  · exact exec_raise (e := .sboxNotValid) (.inl herr) (latcEffect_of_not_ready hsbv rd rs1)
  · have hmax := isMax_latColumnMax s.sbox (Spec.low8 (s.reg rs1))
    refine ⟨_, _, fun a => ?_, ?_, exec_respond (.inl herr) (latcEffect_of_ready hsbv rd rs1)⟩
    · rw [cellAt_byteTable, lat_eq]
    · rwa [natWord_toNat_of_mem (fun _ => bias_lt _ _ _) hmax.1]
  · exact exec_refused herr (by simp [encode, runsWhileBlocked])

/-- Settles O28, by `SBV`: what the command writes is the report of R221. -/
theorem lapReportsMaximum : Obligations.LapReportsMaximum := by
  refine ⟨rfl, fun s => ⟨fun herr hsbv => ?_, fun herr hsbv => ?_, fun herr => ?_⟩⟩
  · exact exec_raise (e := .sboxNotValid) (.inl herr) (lapEffect_of_not_ready hsbv)
  · exact ⟨_, isLapReport_writeLap s, exec_respond (.inl herr) (lapEffect_of_ready hsbv)⟩
  · exact exec_refused herr (by simp [encode, runsWhileBlocked])

end Sys2Proof.Machine

/-! ## Metrics Aggregator (45_aggregate.md R243 to R246)

The six report commands read only `SBOX` and `CTRL` and write disjoint registers. So the whole report holds what each
of them writes by itself, and any two of them commute, which gives R246 law 1. Laws 2 and 3 are facts about one
comparison, `Metric.compare`: of a bank with itself, and of two banks exchanged. -/

namespace Sys2Proof.Machine

/-! ### The whole report (R243) -/

section Report

variable (s : State)

/-- `ANALYZE` writes bank A and the two matrices only. -/
theorem writeReport_eq : writeReport s =
    { s with
      bankA := (writeReport s).bankA
      sacm := (writeSac s).sacm
      bsm := (writeBicsac s).bsm } := by
  simp only [writeReport, writeDap, writeLap, writeBicsac, writeSac, writeBicnl, writeNl]

theorem writeReport_valid : (writeReport s).bankA.valid = Spec.allValid (s.ctrl.getLsbD 2) := rfl

/-- The registers of `NLSET` in the whole report are those `NLSET` writes by itself; so for the other five commands. -/
theorem isNlReport_writeReport : Spec.IsNlReport (cellAt s.sbox) (writeReport s).bankA := by
  simpa [Spec.IsNlReport] using isNlReport_writeNl s

theorem isBnReport_writeReport : Spec.IsBnReport (cellAt s.sbox) (writeReport s).bankA := by
  simpa [Spec.IsBnReport] using isBnReport_writeBicnl s

theorem isSacReport_writeReport :
    Spec.IsSacReport (cellAt s.sbox) (writeSac s).sacm (writeReport s).bankA := by
  simpa [Spec.IsSacReport] using isSacReport_writeSac s

theorem isBsReport_writeReport :
    Spec.IsBsReport (cellAt s.sbox) (writeBicsac s).bsm (writeReport s).bankA := by
  simpa [Spec.IsBsReport] using isBsReport_writeBicsac s

theorem isLapReport_writeReport : Spec.IsLapReport (cellAt s.sbox) (writeReport s).bankA := by
  simpa [Spec.IsLapReport] using isLapReport_writeLap s

theorem isDapReport_writeReport : Spec.IsDapReport (cellAt s.sbox) (writeReport s).bankA := by
  simpa [Spec.IsDapReport] using isDapReport_writeDap s

end Report

/-- `RVALID` with all six valid bits is 0x3F, and `BSBASE` is bit 8 (R52, R243). -/
theorem allValid_word (quarter : Bool) :
    (Spec.allValid quarter).word = if quarter then 0x13F#32 else 0x3F#32 := by
  cases quarter <;> decide

theorem analyzeEffect_of_not_ready {s : State} (h : s.status.sbv = false) :
    analyzeEffect s = .raise .sboxNotValid 0#32 := needSbox_of_not_ready h _

theorem analyzeEffect_of_ready {s : State} (h : s.status.sbv = true) :
    analyzeEffect s = .respond (if s.ctrl.getLsbD 2 then 0x13F#32 else 0x3F#32) (writeReport s) := by
  rw [analyzeEffect, needSbox_of_ready h, ← allValid_word, ← writeReport_valid]

theorem snapEffect_eq (s : State) :
    snapEffect s = .respond (Spec.rvalidWord s.bankA.valid) { s with bankB := s.bankA } := by
  rw [snapEffect, rvalidWord_eq]

theorem exec_analyze_of_ready {s : State} (herr : s.status.err = false) (hsbv : s.status.sbv = true) :
    exec .analyze s = Spec.answers (if s.ctrl.getLsbD 2 then 0x13F#32 else 0x3F#32) (writeReport s) :=
  exec_respond (.inl herr) (analyzeEffect_of_ready hsbv)

theorem exec_snap_of_unblocked {s : State} (herr : s.status.err = false) :
    exec .snap s = Spec.answers (Spec.rvalidWord s.bankA.valid) { s with bankB := s.bankA } :=
  exec_respond (.inl herr) (snapEffect_eq s)

/-- `ANALYZE` leaves its writes, and `CC` and the responses one on. -/
theorem exec_analyze_next {s t : State} (herr : s.status.err = false) (hsbv : s.status.sbv = true)
    (hexec : exec .analyze s = .next t) : ∃ r, t = (writeReport s).retire r :=
  ⟨_, Host.Outcome.next.inj (hexec.symm.trans ((exec_analyze_of_ready herr hsbv).trans (answers_eq _ _)))⟩

theorem exec_analyze_valid {s t : State} (herr : s.status.err = false) (hsbv : s.status.sbv = true)
    (hexec : exec .analyze s = .next t) :
    t.status.err = false ∧ t.bankA.valid = Spec.allValid (s.ctrl.getLsbD 2) := by
  obtain ⟨r, rfl⟩ := exec_analyze_next herr hsbv hexec
  exact ⟨by simpa using herr, by rw [State.retire_bankA, writeReport_valid]⟩

theorem exec_snap_banks {s t : State} (herr : s.status.err = false) (hexec : exec .snap s = .next t) :
    t.status = s.status ∧ t.bankA = s.bankA ∧ t.bankB = s.bankA := by
  obtain rfl := Host.Outcome.next.inj (hexec.symm.trans ((exec_snap_of_unblocked herr).trans (answers_eq _ _)))
  exact ⟨rfl, rfl, rfl⟩

/-- Settles O29, by `SBV`: the report is made of what the six single commands write. -/
theorem analyzeComputesReport : Obligations.AnalyzeComputesReport := by
  refine ⟨rfl, fun s => ⟨fun herr hsbv => ?_, fun herr hsbv => ?_, fun herr => ?_⟩⟩
  · exact exec_raise (e := .sboxNotValid) (.inl herr) (analyzeEffect_of_not_ready hsbv)
  · refine ⟨(writeReport s).bankA, (writeSac s).sacm, (writeBicsac s).bsm, writeReport_valid s,
      isNlReport_writeReport s, isBnReport_writeReport s, isSacReport_writeReport s, isBsReport_writeReport s,
      isLapReport_writeReport s, isDapReport_writeReport s, ?_⟩
    rw [← writeReport_eq, exec_analyze_of_ready herr hsbv]
  · exact exec_refused herr (by simp [encode, runsWhileBlocked])

/-- Settles O30: the response is `RVALID_A`, whose word is that of R52. -/
theorem snapCopiesBank : Obligations.SnapCopiesBank :=
  ⟨rfl, fun _ => ⟨exec_snap_of_unblocked, fun herr => exec_refused herr (by simp [encode, runsWhileBlocked])⟩⟩

/-! ### The six report commands in any order (R246 law 1) -/

/-- The commands whose state writes `ANALYZE` makes, in its order (R243). -/
def reportCommands : List Instr := [.nlset, .bicnl, .sac, .bicsac, .lap, .dap]

/-- The state writes of a report command. -/
def reportWrite : Instr → State → State
  | .nlset => writeNl
  | .bicnl => writeBicnl
  | .sac => writeSac
  | .bicsac => writeBicsac
  | .lap => writeLap
  | .dap => writeDap
  | _ => id

/-- The state writes of a list of report commands, one after another. -/
def reportWrites (l : List Instr) (s : State) : State := l.foldl (fun u i => reportWrite i u) s

theorem reportWrites_reportCommands (s : State) : reportWrites reportCommands s = writeReport s := rfl

theorem mem_reportCommands {i : Instr} :
    i ∈ reportCommands ↔ i = .nlset ∨ i = .bicnl ∨ i = .sac ∨ i = .bicsac ∨ i = .lap ∨ i = .dap := by
  simp [reportCommands]

theorem reportWrite_status (i : Instr) (s : State) : (reportWrite i s).status = s.status := by
  unfold reportWrite
  split <;> rfl

/-- No report command reads a register that another one writes, and no two write the same register. -/
theorem reportWrite_comm {i j : Instr} (hi : i ∈ reportCommands) (hj : j ∈ reportCommands) (s : State) :
    reportWrite j (reportWrite i s) = reportWrite i (reportWrite j s) := by
  rw [mem_reportCommands] at hi hj
  obtain rfl | rfl | rfl | rfl | rfl | rfl := hi <;> obtain rfl | rfl | rfl | rfl | rfl | rfl := hj <;> rfl

theorem reportWrites_perm {l : List Instr} (h : l.Perm reportCommands) (s : State) :
    reportWrites l s = writeReport s :=
  h.foldl_eq' (fun _ hi _ hj u => reportWrite_comm (h.subset hi) (h.subset hj) u) s

/-- A report command does not look at `CC` and the responses. -/
theorem reportWrite_counts (i : Instr) (s : State) (c : Word) (rs : List Response) :
    reportWrite i { s with cc := c, responses := rs } = { reportWrite i s with cc := c, responses := rs } := by
  unfold reportWrite
  split <;> rfl

/-- A report command that runs makes its writes and ends normally. -/
theorem exec_reportCommand {i : Instr} (hi : i ∈ reportCommands) {s : State} (herr : s.status.err = false)
    (hsbv : s.status.sbv = true) : ∃ d, exec i s = Spec.answers d (reportWrite i s) := by
  rw [mem_reportCommands] at hi
  obtain rfl | rfl | rfl | rfl | rfl | rfl := hi
  · exact ⟨_, exec_respond (i := .nlset) (.inl herr) (nlsetEffect_of_ready hsbv)⟩
  · exact ⟨_, exec_respond (i := .bicnl) (.inl herr) (bicnlEffect_of_ready hsbv)⟩
  · exact ⟨_, exec_respond (i := .sac) (.inl herr) (sacEffect_of_ready hsbv)⟩
  · exact ⟨_, exec_respond (i := .bicsac) (.inl herr) (bicsacEffect_of_ready hsbv)⟩
  · exact ⟨_, exec_respond (i := .lap) (.inl herr) (lapEffect_of_ready hsbv)⟩
  · exact ⟨_, exec_respond (i := .dap) (.inl herr) (dapEffect_of_ready hsbv)⟩

theorem runAll_cons_of_next {i : Instr} {s t : State} (h : exec i s = .next t) (l : List Instr) :
    Spec.runAll (i :: l) s = Spec.runAll l t := by
  rw [Spec.runAll, h]

/-- Report commands one after another make their writes in that order, and `CC` counts them. -/
theorem runAll_reportCommands {l : List Instr} (hl : l ⊆ reportCommands) {s : State}
    (herr : s.status.err = false) (hsbv : s.status.sbv = true) (c : Word) (rs : List Response) :
    ∃ rs', Spec.runAll l { s with cc := c, responses := rs }
      = .next { reportWrites l s with cc := c + BitVec.ofNat 32 l.length, responses := rs' } := by
  induction l generalizing s c rs with
  | nil => exact ⟨rs, by simp [Spec.runAll, reportWrites]⟩
  | cons i l ih =>
    obtain ⟨hi, hl⟩ := List.cons_subset.mp hl
    obtain ⟨d, hexec⟩ := exec_reportCommand hi (s := { s with cc := c, responses := rs }) herr hsbv
    rw [reportWrite_counts] at hexec
    rw [← reportWrite_status i] at herr hsbv
    obtain ⟨rs', hrun⟩ := ih hl herr hsbv (c + 1#32) (rs ++ [{ status := 0#8, data := d }])
    have hcc : c + 1#32 + BitVec.ofNat 32 l.length = c + BitVec.ofNat 32 (i :: l).length := by
      rw [List.length_cons, BitVec.add_assoc, BitVec.ofNat_add, BitVec.add_comm 1#32]
    exact ⟨rs', (runAll_cons_of_next hexec l).trans (by rw [hrun, hcc]; rfl)⟩

/-- Settles O59: the writes of the six commands commute, so those of any order are those of `ANALYZE`. -/
theorem analyzeIsTheSixCommands : Obligations.AnalyzeIsTheSixCommands := by
  intro s t l herr hsbv hperm hexec
  obtain ⟨rs, hrun⟩ := runAll_reportCommands hperm.subset herr hsbv s.cc s.responses
  rw [reportWrites_perm hperm, hperm.length_eq] at hrun
  obtain ⟨r, rfl⟩ := exec_analyze_next herr hsbv hexec
  exact ⟨_, hrun, rfl, rfl⟩

/-! ### One comparison (R245) -/

/-- What `CMP` of a metric writes for the banks `a` and `b` (R245). -/
def Metric.compare (m : Metric) (a b : Report) : Comparison :=
  { win := winner (m.key (m.value a)) (m.key (m.value b))
    a := m.value a
    b := m.value b
    delta := sext32 (((m.value a).toNat : Int) - ((m.value b).toNat : Int)) }

theorem cmpEffect_of_illegal {metric : Sel} (h : Metric.ofNumber metric = none) (rd : RegNum) (s : State) :
    cmpEffect rd metric s = .raise .illegalCommand (encode (.cmp rd metric)) := by
  simp only [cmpEffect, h]

theorem cmpEffect_of_not_comparable {metric : Sel} {m : Metric} {s : State} (h : Metric.ofNumber metric = some m)
    (hc : ¬ m.comparable s.bankA s.bankB = true) (rd : RegNum) :
    cmpEffect rd metric s = .raise .reportNotValid (metric.setWidth 32) := by
  simp only [cmpEffect, h, if_neg hc]

theorem cmpEffect_of_comparable {metric : Sel} {m : Metric} {s : State} (h : Metric.ofNumber metric = some m)
    (hc : m.comparable s.bankA s.bankB = true) (rd : RegNum) :
    cmpEffect rd metric s = respondInto { s with cmp := m.compare s.bankA s.bankB } rd
      ((m.compare s.bankA s.bankB).win.setWidth 32) := by
  simp only [cmpEffect, h, if_pos hc, Metric.compare]

/-- A metric number names a metric (R245). -/
theorem Metric.exists_ofNumber {n : Sel} (h : Spec.IsMetricNumber n.toNat) : ∃ m, Metric.ofNumber n = some m :=
  Option.ne_none_iff_exists'.mp fun hn => Metric.ofNumber_none.1.mp hn h

theorem metric_isSome (n : Sel) : (∃ q, Spec.metric n.toNat = some q) ↔ Spec.IsMetricNumber n.toNat := by
  rw [← not_iff_not, ← Metric.ofNumber_none.2, ← Option.ne_none_iff_exists', not_not]

/-- The register and the valid bit of the rule belong to a metric of the machine. -/
theorem Metric.of_specMetric {n : Sel} {value : Report → Word} {valid : ReportValid → Bool}
    (h : Spec.metric n.toNat = some (value, valid)) :
    ∃ m, Metric.ofNumber n = some m ∧ m.value = value ∧ m.validBit = valid := by
  obtain ⟨m, hm⟩ := Metric.exists_ofNumber ((metric_isSome n).mp ⟨_, h⟩)
  obtain ⟨hspec, -, -⟩ := Metric.ofNumber_some hm
  rw [hspec, Option.some_inj, Prod.mk.injEq] at h
  exact ⟨m, hm, h⟩

theorem Metric.comparable_iff (m : Metric) (a b : Report) :
    m.comparable a b = true ↔ m.validBit a.valid = true ∧ m.validBit b.valid = true
      ∧ (m = .bsDev → a.valid.bsBase = b.valid.bsBase) := by
  rw [← Metric.valid_eq, ← Metric.valid_eq]
  simp [Metric.comparable, and_assoc, imp_iff_not_or]

/-- Settles O31, by the metric number and then by the valid bits of the two banks. -/
theorem cmpComparesMetric : Obligations.CmpComparesMetric := by
  intro rd metric s
  refine ⟨formatX_eq_wordX _ _ 0 0 _, metric_isSome metric, fun herr hnone => ?_, fun value valid hsome => ?_,
    fun herr => exec_refused herr (by simp [encode, runsWhileBlocked])⟩
  · have hm : Metric.ofNumber metric = none := Metric.ofNumber_none.1.mpr (Metric.ofNumber_none.2.mp hnone)
    exact exec_raise (e := .illegalCommand) (.inl herr) (cmpEffect_of_illegal hm rd s)
  · obtain ⟨m, hm, rfl, rfl⟩ := Metric.of_specMetric hsome
    obtain ⟨-, hkey, hbsDev⟩ := Metric.ofNumber_some hm
    intro ready a b win
    have hready : m.comparable s.bankA s.bankB = true ↔ ready := by
      rw [Metric.comparable_iff, ← hbsDev]
    refine ⟨fun herr hnot => ?_, fun herr hcomp => ?_⟩
    · rw [← setWidth_eq_ofNat]
      exact exec_raise (e := .reportNotValid) (.inl herr) (cmpEffect_of_not_comparable hm (mt hready.mp hnot) rd)
    · rw [exec_respond (i := .cmp rd metric) (.inl herr) (cmpEffect_of_comparable hm (hready.mpr hcomp) rd)]
      simp only [Metric.compare, winner_word]
      simp only [winner_eq, hkey]
      rfl

/-! ### A bank against its snapshot, and the banks exchanged (R246 laws 2 and 3) -/

theorem exec_cmp_of_comparable {metric : Sel} {m : Metric} {s : State} (herr : s.status.err = false)
    (h : Metric.ofNumber metric = some m) (hc : m.comparable s.bankA s.bankB = true) (rd : RegNum) :
    ∃ t, exec (.cmp rd metric) s = .next t ∧ t.cmp = m.compare s.bankA s.bankB
      ∧ t.reg rd = (m.compare s.bankA s.bankB).win.setWidth 32 :=
  ⟨_, exec_respond (.inl herr) (cmpEffect_of_comparable h hc rd), rfl, State.reg_setReg_same _ rd _⟩

/-- A command that latches nothing has ended normally. -/
theorem effect_respond_of_unblocked {i : Instr} {s t : State} (herr : s.status.err = false)
    (hexec : exec i s = .next t) (ht : t.status.err = false) :
    ∃ d u, effect i s = .respond d u ∧ t = u.retire { status := 0#8, data := d } := by
  rcases exec_cases i s with ⟨hblocked, -⟩ | ⟨-, ⟨d, u, hu, hr⟩ | ⟨e, info, -, hr⟩⟩
  · cases herr.symm.trans hblocked
  · exact ⟨d, u, hu, Host.Outcome.next.inj (hexec.symm.trans (hr.trans (answers_eq d u)))⟩
  · obtain rfl := Host.Outcome.next.inj (hexec.symm.trans (hr.trans (raises_eq s e info _)))
    rw [takeException_frame] at ht
    cases ht

/-- A comparison that latches nothing has compared the two banks. -/
theorem cmp_of_exec {rd : RegNum} {metric : Sel} {s t : State} (herr : s.status.err = false)
    (hexec : exec (.cmp rd metric) s = .next t) (ht : t.status.err = false) :
    ∃ m, Metric.ofNumber metric = some m ∧ m.comparable s.bankA s.bankB = true
      ∧ t.cmp = m.compare s.bankA s.bankB := by
  obtain ⟨d, u, hu, rfl⟩ := effect_respond_of_unblocked herr hexec ht
  obtain ⟨m, hm, hc, -, rfl⟩ := cmpEffect_respond hu
  exact ⟨m, hm, hc, rfl⟩

theorem Metric.comparable_comm (m : Metric) (a b : Report) : m.comparable a b = m.comparable b a := by
  rw [Bool.eq_iff_iff, Metric.comparable_iff, Metric.comparable_iff, eq_comm (a := a.valid.bsBase)]
  tauto

/-- After `ANALYZE` every valid bit is set (R243), so every metric of the bank has its value. -/
theorem Metric.comparable_self_of_allValid (m : Metric) {r : Report} {quarter : Bool}
    (h : r.valid = Spec.allValid quarter) : m.comparable r r = true := by
  have hbit : m.validBit r.valid = true := by rw [h]; cases m <;> rfl
  exact (m.comparable_iff r r).mpr ⟨hbit, hbit, fun _ => rfl⟩

/-- A bank compared with itself: equal, with delta 0. -/
theorem Metric.compare_self (m : Metric) (r : Report) :
    (m.compare r r).win = 0#2 ∧ (m.compare r r).delta = 0#32 := by
  simp [Metric.compare, winner, sext32]

/-- Every comparison of two equal banks with all valid bits set finds them equal. -/
theorem exec_cmp_of_equal_banks {s : State} {metric : Sel} {quarter : Bool} (herr : s.status.err = false)
    (hbanks : s.bankB = s.bankA) (hvalid : s.bankA.valid = Spec.allValid quarter)
    (hnum : Spec.IsMetricNumber metric.toNat) (rd : RegNum) :
    ∃ t, exec (.cmp rd metric) s = .next t ∧ t.reg rd = 0#32 ∧ t.cmp.win = 0#2 ∧ t.cmp.delta = 0#32 := by
  obtain ⟨m, hm⟩ := Metric.exists_ofNumber hnum
  have hself := m.comparable_self_of_allValid hvalid
  obtain ⟨hwin, hdelta⟩ := m.compare_self s.bankA
  obtain ⟨t, ht, hcmp, hreg⟩ := exec_cmp_of_comparable herr hm (by rwa [hbanks]) rd
  rw [hbanks, hwin] at hreg
  rw [hbanks] at hcmp
  exact ⟨t, ht, hreg, by rw [hcmp, hwin], by rw [hcmp, hdelta]⟩

theorem winner_swap (ka kb : Int) :
    (winner ka kb = 0#2 → winner kb ka = 0#2) ∧ (winner ka kb = 1#2 → winner kb ka = 2#2)
      ∧ (winner ka kb = 2#2 → winner kb ka = 1#2) := by
  obtain h | rfl | h := lt_trichotomy ka kb
  · simp [winner, h, h.ne, h.ne', h.not_gt]
  · simp [winner]
  · simp [winner, h, h.ne, h.ne', h.not_gt]

/-- With the banks exchanged the difference changes its sign. -/
theorem Metric.compare_delta_swap (m : Metric) (a b : Report) :
    (m.compare b a).delta = -(m.compare a b).delta := by
  rw [Metric.compare, Metric.compare, sext32, sext32, ← BitVec.ofInt_neg, neg_sub]

/-- Settles O60: `ANALYZE` and `SNAP` leave the same report in both banks, and exchanging the banks exchanges the two
sides of the one comparison that is made. -/
theorem comparisonLaws : Obligations.ComparisonLaws := by
  refine ⟨fun s t u rd metric herr hsbv hanalyze hsnap hnum => ?_, fun s t rd metric herr hexec ht => ?_⟩
  · obtain ⟨hterr, hvalid⟩ := exec_analyze_valid herr hsbv hanalyze
    obtain ⟨hstatus, hbankA, hbankB⟩ := exec_snap_banks hterr hsnap
    exact exec_cmp_of_equal_banks (by rw [hstatus, hterr]) (hbankB.trans hbankA.symm) (by rw [hbankA, hvalid]) hnum rd
  · obtain ⟨m, hm, hc, hcmp⟩ := cmp_of_exec herr hexec ht
    rw [m.comparable_comm] at hc
    obtain ⟨t', ht', hcmp', -⟩ :=
      exec_cmp_of_comparable (s := { s with bankA := s.bankB, bankB := s.bankA }) herr hm hc rd
    obtain ⟨h0, h1, h2⟩ := winner_swap (m.key (m.value s.bankA)) (m.key (m.value s.bankB))
    refine ⟨t', ht', ?_⟩
    rw [hcmp, hcmp']
    exact ⟨h0, h1, h2, m.compare_delta_swap s.bankA s.bankB⟩

end Sys2Proof.Machine

/-! ## System and data movement (46_system.md R260 to R267)

`NOP`, `GET`, `CSRR`, `ECLR` and `LDT` run in every state, blocked or not; `LI`, `CSRW` and `STS` are refused while an
exception is latched. `CSRR` and `LDT` turn on the maps of registers and of table spaces by number, `STS` on the two
registers that must be bytes. -/

namespace Sys2Proof.Machine

/-! ### Operands as numbers (R33) -/

/-- A byte is the low byte of a register up to 255 exactly when the two are the same number. -/
theorem eq_low8_iff {v : Word} (hv : v.toNat ≤ 255) (x : Byte) : x = Spec.low8 v ↔ x.toNat = v.toNat := by
  rw [← BitVec.toNat_inj, Spec.low8, BitVec.toNat_ofNat, Nat.mod_eq_of_lt (by omega)]

/-- `CTRL` reads as the three bits taken from the register (R46, R264). -/
theorem ctrlWord_setWidth (v : Word) : ctrlWord (v.setWidth 3) = BitVec.ofNat 32 (v.toNat % 8) := by
  rw [ctrlWord, setWidth_eq_ofNat, BitVec.toNat_setWidth]

/-! ### The pseudocode of each command in the rules' words (R261 to R267) -/

theorem liEffect_eq (rd : RegNum) (imm : BitVec 16) (s : State) :
    liEffect rd imm s = respondInto s rd (BitVec.ofNat 32 imm.toNat) := by
  rw [liEffect, setWidth_eq_ofNat]

theorem csrrEffect_of_value {csr : Sel} {s : State} {v : Word} (h : Spec.csrValue s csr.toNat = some v)
    (rd : RegNum) : csrrEffect rd csr s = respondInto s rd v := by
  cases hc : Csr.ofNumber csr with
  | none =>
    have hmapped := (csrValue_isSome s csr.toNat).mp ⟨v, h⟩
    exact absurd hmapped (Csr.ofNumber_none.mp hc)
  | some c =>
    obtain rfl : s.readCsr c = v := Option.some.inj ((csrValue_eq s hc).symm.trans h)
    simp only [csrrEffect, hc]

theorem csrwEffect_of_ctrl {csr : Sel} (h : csr.toNat = 0x002) (rs1 : RegNum) (s : State) :
    csrwEffect csr rs1 s = .respond (BitVec.ofNat 32 ((s.reg rs1).toNat % 8))
      { s with ctrl := BitVec.ofNat 3 (s.reg rs1).toNat } := by
  have hcsr : csr = 0x002#12 := BitVec.eq_of_toNat_eq h
  rw [csrwEffect, if_pos hcsr, ← ctrlWord_setWidth, BitVec.ofNat_toNat]

theorem ldtEffect_of_index_ge {space : Sel} {sp : Space} {rs1 : RegNum} {s : State}
    (hsp : Space.ofNumber space = some sp) (h : sp.size ≤ (s.reg rs1).toNat) (rd : RegNum) :
    ldtEffect rd space rs1 s = .raise .indexRange (s.reg rs1) := by
  simp only [ldtEffect, hsp, (memRead_eq_none s sp _).mpr h]

theorem ldtEffect_of_cell {space : Sel} {sp : Space} {rs1 : RegNum} {s : State} {c : Int}
    (hsp : Space.ofNumber space = some sp) (hc : s.memRead sp (s.reg rs1).toNat = some c) (rd : RegNum) :
    ldtEffect rd space rs1 s = respondInto s rd (cellValue sp c) := by
  simp only [ldtEffect, hsp, hc, cellValue]

theorem stsEffect_of_index_gt {rs1 : RegNum} {s : State} (hi : 255 < (s.reg rs1).toNat) (rs2 : RegNum) :
    stsEffect rs1 rs2 s = .raise .indexRange (s.reg rs1) := by
  simp only [stsEffect, asByte_gt hi]

theorem stsEffect_of_value_gt {rs1 rs2 : RegNum} {s : State} (hi : (s.reg rs1).toNat ≤ 255)
    (hv : 255 < (s.reg rs2).toNat) : stsEffect rs1 rs2 s = .raise .validationError (s.reg rs2) := by
  simp only [stsEffect, asByte_le hi, asByte_gt hv]

theorem stsEffect_of_le {rs1 rs2 : RegNum} {s : State} (hi : (s.reg rs1).toNat ≤ 255)
    (hv : (s.reg rs2).toNat ≤ 255) :
    stsEffect rs1 rs2 s = .respond 0#32
      ((s.writeSbox (Spec.low8 (s.reg rs1)) (Spec.low8 (s.reg rs2))).sboxChanged false) := by
  simp only [stsEffect, asByte_le hi, asByte_le hv, setWidth8_eq_low8]

/-! ### The commands with operands that run while blocked (R298) -/

theorem runsWhileBlocked_get (rs1 : RegNum) : runsWhileBlocked (opField (encode (.get rs1))) = true :=
  (runsWhileBlocked_encode _).mpr (by simp)

theorem runsWhileBlocked_csrr (rd : RegNum) (csr : Sel) :
    runsWhileBlocked (opField (encode (.csrr rd csr))) = true :=
  (runsWhileBlocked_encode _).mpr (by simp)

theorem runsWhileBlocked_ldt (rd : RegNum) (space : Sel) (rs1 : RegNum) :
    runsWhileBlocked (opField (encode (.ldt rd space rs1))) = true :=
  (runsWhileBlocked_encode _).mpr (by simp)

/-! ### A `sel` that the command does not accept (R117) -/

theorem exec_of_not_wellFormed {i : Instr} {s : State}
    (hrun : s.status.err = false ∨ runsWhileBlocked (opField (encode i)) = true) (h : i.wellFormed = false) :
    exec i s = Spec.raises s Spec.illegalCommand (encode i) (encode i) :=
  exec_raise (e := .illegalCommand) hrun (effect_of_not_wellFormed h s)

theorem not_wellFormed_csrr {csr : Sel} (h : ¬ Spec.IsCsrNumber csr.toNat) (rd : RegNum) :
    (Instr.csrr rd csr).wellFormed = false :=
  (wellFormed_csrr rd csr).mpr (Csr.ofNumber_none.mpr h)

/-- Only `CTRL` is writable. -/
theorem not_wellFormed_csrw {csr : Sel} (h : csr.toNat ≠ 0x002) (rs1 : RegNum) :
    (Instr.csrw csr rs1).wellFormed = false :=
  beq_eq_false_iff_ne.mpr fun hcsr => h (congrArg BitVec.toNat hcsr)

theorem not_wellFormed_ldt {space : Sel} (h : 9 ≤ space.toNat) (rd rs1 : RegNum) :
    (Instr.ldt rd space rs1).wellFormed = false :=
  (wellFormed_ldt rd space rs1).mpr (Space.ofNumber_none h)

/-! ### The commands -/

/-- Settles O4, by the CSR number: in the map, it has the value the rules give it, otherwise it names no register. -/
theorem csrrReadsCsr : Obligations.CsrrReadsCsr := by
  intro rd csr s
  refine ⟨formatX_eq_wordX _ _ 0 0 _, csrValue_isSome s _, fun v hv => ?_, fun hunmapped => ?_⟩
  · exact exec_respond (.inr (runsWhileBlocked_csrr rd csr)) (csrrEffect_of_value hv rd)
  · exact exec_of_not_wellFormed (.inr (runsWhileBlocked_csrr rd csr)) (not_wellFormed_csrr hunmapped rd)

/-- Settles O7, by the space number and then by the index against the size of the space. -/
theorem ldtLoadsCell : Obligations.LdtLoadsCell := by
  intro rd space rs1 s
  have hrun := runsWhileBlocked_ldt rd space rs1
  refine ⟨formatX_eq_wordX _ _ _ 0 _, fun hreserved => ?_, fun hspace => ?_⟩
  · exact exec_of_not_wellFormed (.inr hrun) (not_wellFormed_ldt hreserved rd rs1)
  · obtain ⟨sp, hsp, hsize, hcell⟩ := Space.ofNumber_some hspace
    refine ⟨sp.size, hsize, fun hge => ?_, fun hlt => ?_⟩
    · exact exec_raise (e := .indexRange) (.inr hrun) (ldtEffect_of_index_ge hsp hge rd)
    · obtain ⟨c, hc⟩ := memRead_isSome (s := s) hlt
      refine ⟨cellValue sp c, ?_, exec_respond (.inr hrun) (ldtEffect_of_cell hsp hc rd)⟩
      rw [hcell, hc, Option.map_some]

/-- Settles O8, by the index and then by the value. -/
theorem stsStoresEntry : Obligations.StsStoresEntry := by
  intro rs1 rs2 s
  refine ⟨formatX_eq_wordX _ 0 _ _ _, fun herr hi => ?_, fun herr hi hv => ?_, fun herr hi hv => ?_, fun herr => ?_⟩
  · exact exec_raise (e := .indexRange) (.inl herr) (stsEffect_of_index_gt hi rs2)
  · exact exec_raise (e := .validationError) (.inl herr) (stsEffect_of_value_gt hi hv)
  · refine ⟨s.sbox.set (byteIndex (Spec.low8 (s.reg rs1))) (Spec.low8 (s.reg rs2)), fun x => ?_,
      exec_respond (.inl herr) (stsEffect_of_le hi hv)⟩
    simp only [cellAt_set, eq_low8_iff hi]
  · exact exec_refused herr (by simp [encode, runsWhileBlocked])

/-- Settles O1: decoder and encoder are inverse to each other, and `NOP` runs in every state. -/
theorem nopChangesOnlyCC : Obligations.NopChangesOnlyCC := by
  refine ⟨fun w => ⟨fun h => (encode_of_decode h).symm, ?_⟩, fun s => exec_respond (.inr rfl) rfl⟩
  rintro rfl
  exact decode_encode .nop

/-- Settles O2, by the two ways the command ends: refused while blocked, otherwise with its immediate. -/
theorem liLoadsZeroExtended : Obligations.LiLoadsZeroExtended := by
  intro rd imm s
  refine ⟨formatI_eq_wordI _ _ _, fun herr => ?_, fun herr => ?_⟩
  · exact exec_respond (.inl herr) (liEffect_eq rd imm s)
  · exact exec_refused herr (by simp [encode, runsWhileBlocked])

/-- Settles O3: `GET` runs in every state and writes nothing. -/
theorem getReturnsRegister : Obligations.GetReturnsRegister := by
  intro rs1 s
  exact ⟨formatX_eq_wordX _ 0 _ 0 _, exec_respond (.inr (runsWhileBlocked_get rs1)) rfl⟩

/-- Settles O5, by the CSR number. -/
theorem csrwWritesCtrl : Obligations.CsrwWritesCtrl := by
  intro csr rs1 s
  refine ⟨formatX_eq_wordX _ 0 _ 0 _, fun herr hctrl => ?_, fun herr hother => ?_, fun herr => ?_⟩
  · exact exec_respond (.inl herr) (csrwEffect_of_ctrl hctrl rs1 s)
  · exact exec_of_not_wellFormed (.inl herr) (not_wellFormed_csrw hother rs1)
  · exact exec_refused herr (by simp [encode, runsWhileBlocked])

/-- Settles O6: `ECLR` runs in every state, and its writes are the return from an exception (R303). -/
theorem eclrClearsException : Obligations.EclrClearsException :=
  ⟨rfl, fun _ => exec_respond (.inr rfl) rfl⟩

end Sys2Proof.Machine

/-! ## The execution of a command word and its exceptions (60_exceptions.md R290 to R299)

Every command word ends in one of three ways: the blocked state refuses it, its pseudocode responds, or it raises.
`runWord_cases` says so of all words, those that do not decode included. What the blocked state still runs is read from
the list of updates: of the five commands only `ECLR` has an update. -/

namespace Sys2Proof.Machine

/-! ### How a command word ends (R292) -/

/-- INVERSION of a command word: it is refused, or it is a command that responds, or it raises. -/
theorem runWord_cases (w : Word) (s : State) :
    (s.status.err = true ∧ runsWhileBlocked (opField w) = false ∧ runWord w s = Spec.refuses s)
    ∨ ((s.status.err = false ∨ runsWhileBlocked (opField w) = true) ∧
        ((∃ i d t, decode w = .ok i ∧ effect i s = .respond d t ∧ runWord w s = Spec.answers d t)
        ∨ ∃ (e : Exc) (info : Word), runWord w s = Spec.raises s e.code info w)) := by
  cases hd : decode w with
  | ok i =>
    have h := exec_cases i s
    rw [encode_of_decode hd, ← runWord_ok hd] at h
    exact h.imp_right <| And.imp_right <| Or.imp
      (fun ⟨d, t, hb, hr⟩ => ⟨i, d, t, rfl, hb, hr⟩) (fun ⟨e, info, _, hr⟩ => ⟨e, info, hr⟩)
  | error e =>
    have h := issue_cases w (fun _ => .raise .illegalCommand w) s
    rw [← issueIllegal, ← runWord_error hd] at h
    exact h.imp_right <| And.imp_right <| Or.imp
      (fun ⟨_, _, hb, _⟩ => nomatch hb) (fun ⟨e, info, _, hr⟩ => ⟨e, info, hr⟩)

/-- Codes count from 1 (R290). -/
theorem Exc.one_le_code (e : Exc) : 1#8 ≤ e.code := by cases e <;> decide

/-! ### What the blocked state runs (R298, R299) -/

theorem runsBlocked_iff (w : Word) : Spec.RunsBlocked w ↔ runsWhileBlocked (opField w) = true := by
  simp [Spec.RunsBlocked, op_eq, runsWhileBlocked, BitVec.toNat_eq, or_assoc]

theorem op_encode_eq_five_iff (i : Instr) : Spec.op (encode i) = 0x05 ↔ i = .eclr := by
  rw [op_eq]
  cases i <;> simp [encode]

/-- While blocked, the allowed commands other than `ECLR` have no writes but their destination. -/
theorem Writes.eq_of_blocked {s u : State} {i : Instr} (hw : Writes s i u) (herr : s.status.err = true)
    (hrun : runsWhileBlocked (opField (encode i)) = true) (hne : i ≠ .eclr) : u = s := by
  cases hw with
  | nothing => rfl
  | latch hclear => cases herr.symm.trans hclear
  | eclr => exact absurd rfl hne
  | _ => simp [encode, runsWhileBlocked] at hrun

theorem effect_respond_of_blocked {i : Instr} {s t : State} {d : Word} (herr : s.status.err = true)
    (hrun : runsWhileBlocked (opField (encode i)) = true) (hne : i ≠ .eclr) (h : effect i s = .respond d t) :
    ∃ x, t = { s with x := x } ∧ ∀ q, Spec.dest i ≠ some q → t.reg q = s.reg q := by
  obtain ⟨u, hw, ht⟩ := effect_respond_writes h
  obtain rfl := hw.eq_of_blocked herr hrun hne
  obtain rfl | ⟨rd, hd, rfl⟩ := ht
  · exact ⟨_, rfl, fun _ _ => rfl⟩
  · exact ⟨_, rfl, fun q hq => State.reg_setReg_ne u d fun heq => hq (heq ▸ hd)⟩

/-! ### The statements -/

/-- Settles O32: the step takes the word, and a word that decodes runs as its command. -/
theorem stepRunsDecodedCommand : Obligations.StepRunsDecodedCommand := by
  intro s w rest i hin hd
  rw [step_command hin, runWord_ok hd]

/-- Settles O33: of the three ends of a word, no refusal without an exception latched, and a response has status 0. -/
theorem exceptionIsLatched : Obligations.ExceptionIsLatched := by
  intro s w rest hin herr
  rw [step_command hin]
  rcases runWord_cases w { s with input := rest } with
    ⟨hblocked, -⟩ | ⟨-, ⟨i, d, t, -, hb, hr⟩ | ⟨e, info, hr⟩⟩
  · cases herr.symm.trans hblocked
  · obtain ⟨-, hresp, -⟩ := effect_respond_frame hb
    exact ⟨_, { status := 0#8, data := d }, hr, by rw [hresp], .inl rfl⟩
  · rw [Spec.raises, if_pos herr] at hr
    exact ⟨_, { status := e.code, data := info }, hr, rfl, .inr ⟨e.one_le_code, e.code_le_nine, rfl⟩⟩

/-- Settles O34, by the three ends of a word: refused exactly outside the five op bytes; a response of an allowed
command writes its destination only, or is that of `ECLR`; an exception is not latched. -/
theorem blockedStateRefuses : Obligations.BlockedStateRefuses := by
  intro s w rest hin herr
  rw [step_command hin, runsBlocked_iff]
  rcases runWord_cases w { s with input := rest } with ⟨-, hout, hr⟩ | ⟨hrun, hends⟩
  · exact ⟨fun _ => hr, fun hallowed => by cases hout.symm.trans hallowed⟩
  replace hrun := hrun.resolve_left (by simp [herr])
  refine ⟨fun hout => absurd hrun hout, fun _ => ?_⟩
  rcases hends with ⟨i, d, t, hd, hb, hr⟩ | ⟨e, info, hr⟩
  · obtain rfl := encode_of_decode hd
    obtain ⟨-, hresp, -⟩ := effect_respond_frame hb
    refine ⟨_, { status := 0#8, data := d }, hr, by rw [hresp], (by decide : 0#8 ≤ 9#8),
      fun h => absurd h (by decide : ¬ 1#8 ≤ 0#8), fun _ hop => ?_, fun _ hop => ?_⟩
    · have hne : i ≠ .eclr := mt (op_encode_eq_five_iff i).mpr hop
      obtain ⟨x, rfl, hreg⟩ := effect_respond_of_blocked (s := { s with input := rest }) herr hrun hne hb
      exact ⟨rfl, i, hd, hreg⟩
    · obtain rfl := (op_encode_eq_five_iff i).mp hop
      obtain ⟨-, rfl⟩ := eclrEffect_respond hb
      rfl
  · rw [Spec.raises, if_neg (by simp [herr])] at hr
    exact ⟨_, { status := e.code, data := info }, hr, rfl, e.code_le_nine, fun _ => rfl,
      fun h => absurd h e.code_ne_zero, fun h => absurd h e.code_ne_zero⟩

end Sys2Proof.Machine

/-! ## Laws of the Field Engine (40_field.md R141 to R151)

Every non-zero byte is a power of a primitive element and so has an inverse, which excludes zero divisors. The table
product adds exponents modulo 255, and the 255th power is 1, so it is `pmul`; the table inverse is the one inverse
that `pmul` allows. Neither depends on the primitive element. -/

namespace Sys2Proof.Machine

/-! ### `pmul` has no zero divisors (R141) -/

theorem exists_pmul_eq_one {a : Byte} (ha : a ≠ 0#8) : ∃ b, pmul a b = 1#8 := by
  have hthree : Spec.Primitive 3#8 := (isPrimitive_iff _).mp (by decide +kernel)
  exact ⟨_, pmul_tinv hthree (isTables_of_primitive hthree) ha⟩

theorem pmul_ne_zero {a b : Byte} (ha : a ≠ 0#8) (hb : b ≠ 0#8) : pmul a b ≠ 0#8 := by
  obtain ⟨c, hc⟩ := exists_pmul_eq_one ha
  intro hzero
  refine hb ?_
  calc b = pmul (pmul a c) b := by rw [hc, pmul_comm, pmul_one]
    _ = pmul c (pmul a b) := by rw [pmul_comm a c, pmul_assoc]
    _ = 0#8 := by rw [hzero, pmul_zero]

/-- Settles O49: the laws of a field product, and the four products that R141 prints. -/
theorem pmulIsFieldProduct : Obligations.PmulIsFieldProduct :=
  ⟨pmul_comm, pmul_assoc, pmul_xorAdditive_right, pmul_zero, pmul_one, fun _ _ => pmul_ne_zero,
    by decide, by decide, by decide, by decide⟩

/-! ### The table product and the table inverse (R144, R150) -/

section Tables

variable {g : Byte} {E L : Byte → Byte}

/-- Exponents count modulo 255. -/
theorem ppow_mod (hg : Spec.Primitive g) (n : Nat) : ppow g (n % 255) = ppow g n := by
  rw [ppow_eq_iterate, ppow_eq_iterate, ← minimalPeriod_of_primitive hg, Function.iterate_mod_minimalPeriod_eq]

/-- `LOG` inverts the powers of the generator. -/
theorem log_ppow_toNat (hT : Spec.IsTables g E L) {i : Nat} (hi : i < 255) : (L (ppow g i)).toNat = i := by
  obtain ⟨-, hL, -⟩ := hT
  rw [hL i hi, BitVec.toNat_ofNat]
  omega

theorem exp_log (hg : Spec.Primitive g) (hT : Spec.IsTables g E L) {v : Byte} (hv : v ≠ 0#8) : E (L v) = v := by
  obtain ⟨hE, hL, -⟩ := hT
  obtain ⟨i, hi, rfl⟩ := exists_ppow_eq hg hv
  rw [hL i hi, hE i (by omega)]

theorem log_exp (hT : Spec.IsTables g E L) {i : Nat} (hi : i < 255) :
    L (E (BitVec.ofNat 8 i)) = BitVec.ofNat 8 i := by
  obtain ⟨hE, hL, -⟩ := hT
  rw [hE i (by omega), hL i hi]

theorem exp_inj (hg : Spec.Primitive g) (hT : Spec.IsTables g E L) {i j : Nat} (hi : i < 255) (hj : j < 255)
    (h : E (BitVec.ofNat 8 i) = E (BitVec.ofNat 8 j)) : i = j := by
  obtain ⟨hE, -, -⟩ := hT
  rw [hE i (by omega), hE j (by omega)] at h
  exact ppow_injOn hg hi hj h

theorem exp_last (hg : Spec.Primitive g) (hT : Spec.IsTables g E L) : E 255#8 = E 0#8 := by
  obtain ⟨hE, -, -⟩ := hT
  exact (hE 255 (by decide)).trans (hg.1.trans (hE 0 (by decide)).symm)

/-- The table product is the product of the field. -/
theorem specTmul_eq_pmul (hg : Spec.Primitive g) (hT : Spec.IsTables g E L) (a b : Byte) :
    Spec.tmul E L a b = pmul a b := by
  by_cases hz : a = 0#8 ∨ b = 0#8
  · rw [Spec.tmul, if_pos hz]
    rcases hz with rfl | rfl
    · exact (pmul_zero_left b).symm
    · exact (pmul_zero a).symm
  · obtain ⟨ha, hb⟩ := not_or.mp hz
    obtain ⟨i, hi, rfl⟩ := exists_ppow_eq hg ha
    obtain ⟨j, hj, rfl⟩ := exists_ppow_eq hg hb
    rw [Spec.tmul, if_neg hz, log_ppow_toNat hT hi, log_ppow_toNat hT hj, hT.1 _ (by omega), ppow_mod hg, ppow_add]

theorem tinv_ne_zero (hg : Spec.Primitive g) (hT : Spec.IsTables g E L) {a : Byte} (ha : a ≠ 0#8) :
    Spec.tinv E L a ≠ 0#8 := by
  intro hzero
  have hprod := pmul_tinv hg hT ha
  rw [hzero, pmul_zero] at hprod
  cases hprod

theorem tinv_tinv (hg : Spec.Primitive g) (hT : Spec.IsTables g E L) {a : Byte} (ha : a ≠ 0#8) :
    Spec.tinv E L (Spec.tinv E L a) = a :=
  eq_of_pmul_eq_one (pmul_tinv hg hT (tinv_ne_zero hg hT ha)) (by rw [pmul_comm, pmul_tinv hg hT ha])

theorem tinv_one (hg : Spec.Primitive g) (hT : Spec.IsTables g E L) : Spec.tinv E L 1#8 = 1#8 :=
  eq_of_pmul_eq_one (pmul_tinv hg hT (by decide)) (pmul_one _)

/-- The table inverse does not depend on the generator of the tables: a byte has at most one inverse. -/
theorem tinv_independent {h : Byte} {E' L' : Byte → Byte} (hg : Spec.Primitive g) (hT : Spec.IsTables g E L)
    (hh : Spec.Primitive h) (hT' : Spec.IsTables h E' L') {a : Byte} (ha : a ≠ 0#8) :
    Spec.tinv E L a = Spec.tinv E' L' a :=
  eq_of_pmul_eq_one (pmul_tinv hg hT ha) (pmul_tinv hh hT' ha)

end Tables

/-- The destination of `GFADD` holds the XOR of the two low bytes. -/
theorem gfadd_reg {rd rs1 rs2 : RegNum} {s t : State} (herr : s.status.err = false)
    (hexec : exec (.gfadd rd rs1 rs2) s = .next t) :
    t.reg rd = Spec.zext (Spec.low8 (s.reg rs1) ^^^ Spec.low8 (s.reg rs2)) := by
  have hrun := exec_respond (i := .gfadd rd rs1 rs2) (.inl herr) (gfaddEffect_eq rd rs1 rs2 s)
  obtain rfl := Host.Outcome.next.inj (hexec.symm.trans (hrun.trans (answers_eq _ _)))
  exact State.reg_setReg_same s rd _

/-- Settles O50: with valid tables the table product is `pmul` and the table inverse its inverse, so the laws are
those of the field. -/
theorem fieldEngineLaws : Obligations.FieldEngineLaws := by
  intro s hF hftv
  obtain ⟨hg, hT⟩ := hF.valid hftv
  have htmul (a b : Byte) : tmul s.exp s.log a b = pmul a b := specTmul_eq_pmul hg hT a b
  refine ⟨htmul, fun a ha => ?_, fun a ha => tinv_tinv hg hT ha, tinv_one hg hT, fun i hi => log_exp hT hi,
    fun v hv => exp_log hg hT hv, fun i j hi hj => exp_inj hg hT hi hj, exp_last hg hT,
    fun rd rs1 rs2 t => gfadd_reg, BitVec.xor_comm, BitVec.xor_assoc, fun a => BitVec.xor_self,
    fun a => BitVec.xor_zero, fun a b c => ?_⟩
  · rw [htmul]
    exact pmul_tinv hg hT ha
  · rw [htmul, htmul, htmul, pmul_xorAdditive_right]

/-- Settles O51: both products are `pmul`, an inverse is unique, and `FBUILD` writes the field tables only. -/
theorem generatorIndependence : Obligations.GeneratorIndependence := by
  refine ⟨fun g h E L E' L' hg hh hT hT' => ⟨fun a b => ?_, fun a ha => ?_, fun a => ?_⟩, fun r s t hexec => ?_⟩
  · exact (specTmul_eq_pmul hg hT a b).trans (specTmul_eq_pmul hh hT' a b).symm
  · exact tinv_independent hg hT hh hT' ha
  · exact inv0_independent hg hT hh hT' a
  · obtain ⟨u, x, rs, hw, rfl⟩ := exec_next_eq hexec
    cases hw with
    | nothing | latch | fbuild => simp

end Sys2Proof.Machine

/-! ## Laws of the Spectral and the Approximation Analyzer (42_spectral.md R185, 44_approximation.md)

The signs of the linear functions are orthogonal: those of `x` and `y` agree on all masks when `x = y` and on half of
them otherwise. Expanding the square of a Walsh value and summing over the masks therefore leaves only the pairs
`x = y`, which is Parseval's relation: the 256 squares sum to 2^16. So some Walsh value is at least 16 in size, and no
nonlinearity is above 120. -/

namespace Sys2Proof.Machine

/-! ### LAT counts and Walsh values at the mask 0 (R181, R219) -/

theorem parity_zero_and (x : Byte) : Spec.parity (0#8 &&& x) = false := by
  rw [BitVec.zero_and]
  decide

section Table

variable (S : Byte → Byte)

theorem lat_zero_zero : Spec.lat S 0#8 0#8 = 256 := by
  simp only [Spec.lat, parity_zero_and, Finset.filter_true, card_univ_byte]

/-- A non-zero linear function agrees with 0 on half of the bytes. -/
theorem lat_zero_right {a : Byte} (ha : a ≠ 0#8) : Spec.lat S a 0#8 = 128 := by
  simp only [Spec.lat, parity_zero_and, card_parity_and ha]

theorem walsh_zero_zero : Spec.walsh S 0#8 0#8 = 256 := by
  rw [walsh_eq_lat, lat_zero_zero]
  norm_num

theorem walsh_zero_left {a : Byte} (ha : a ≠ 0#8) : Spec.walsh S 0#8 a = 0 := by
  rw [walsh_eq_lat, lat_zero_right S ha]
  norm_num

variable {S} in
/-- A component function of a permutation is balanced (R185 law 3). -/
theorem walsh_zero_right (hS : Function.Injective S) {b : Byte} (hb : b ≠ 0#8) :
    Spec.walsh S b 0#8 = 0 := by
  rw [walsh_eq_lat, lat_zero_left hS hb]
  norm_num

theorem even_walsh (b a : Byte) : Even (Spec.walsh S b a) := by
  rw [walsh_eq_lat]
  exact (even_two_mul _).sub (by decide)

theorem walsh_bounds (b a : Byte) : -256 ≤ Spec.walsh S b a ∧ Spec.walsh S b a ≤ 256 := by
  have hle := lat_le S a b
  rw [walsh_eq_lat]
  omega

theorem nl_zero : Spec.nl S 0#8 = 0 := by
  have hbias := nl_add_bias_le S 0#8 0#8
  rw [Spec.bias, lat_zero_zero] at hbias
  omega

/-! ### Parseval's relation (R185 law 4) -/

/-- The sign a bit gives a term of the Walsh sum (R181). -/
def sign (p : Bool) : Int := if p = false then 1 else -1

theorem sign_xor (p q : Bool) : sign (p ^^ q) = sign p * sign q := by
  cases p <;> cases q <;> rfl

theorem sign_mul_self (p : Bool) : sign p * sign p = 1 := by
  cases p <;> rfl

theorem walsh_eq_sum_sign (b a : Byte) :
    Spec.walsh S b a = ∑ x, sign (Spec.f S b x) * sign (Spec.parity (a &&& x)) := by
  simp only [← sign_xor]
  rfl

/-- The signs of a linear function cancel, but for the function 0. -/
theorem sum_sign_parity (u : Byte) : ∑ a, sign (Spec.parity (a &&& u)) = if u = 0#8 then 256 else 0 := by
  have hwalsh : ∑ a, sign (Spec.parity (a &&& u)) = Spec.walsh id 0#8 u := by
    rw [walsh_eq_sum_sign]
    refine Finset.sum_congr rfl fun a _ => ?_
    rw [Spec.f, parity_zero_and, BitVec.and_comm]
    exact (one_mul _).symm
  rw [hwalsh]
  split
  · next hu => rw [hu, walsh_zero_zero]
  · next hu => exact walsh_zero_left id hu

/-- The signs of the linear functions are orthogonal. -/
theorem sum_sign_mul_sign (x y : Byte) :
    ∑ a, sign (Spec.parity (a &&& x)) * sign (Spec.parity (a &&& y)) = if x = y then 256 else 0 := by
  simp only [← sign_xor, ← parity_and_xor, sum_sign_parity, BitVec.xor_eq_zero_iff]

theorem parseval (b : Byte) : ∑ a, Spec.walsh S b a ^ 2 = 65536 := by
  have hsquare (a : Byte) : Spec.walsh S b a ^ 2 = ∑ x, ∑ y, sign (Spec.f S b x) * sign (Spec.f S b y)
      * (sign (Spec.parity (a &&& x)) * sign (Spec.parity (a &&& y))) := by
    rw [walsh_eq_sum_sign, sq, Finset.sum_mul_sum]
    exact Finset.sum_congr rfl fun x _ => Finset.sum_congr rfl fun y _ => mul_mul_mul_comm _ _ _ _
  calc ∑ a, Spec.walsh S b a ^ 2
      = ∑ x, ∑ y, sign (Spec.f S b x) * sign (Spec.f S b y)
          * ∑ a, sign (Spec.parity (a &&& x)) * sign (Spec.parity (a &&& y)) := by
        simp only [hsquare, Finset.mul_sum]
        rw [Finset.sum_comm]
        exact Finset.sum_congr rfl fun x _ => Finset.sum_comm
    _ = ∑ _x : Byte, 256 := by
        simp only [sum_sign_mul_sign, mul_ite, mul_zero, Finset.sum_ite_eq, Finset.mem_univ, if_true,
          sign_mul_self, one_mul]
    _ = 65536 := by
        rw [Finset.sum_const, card_univ_byte]
        norm_num

/-- If all 256 Walsh values were at most 15 in size, their squares would sum to less than 2^16. -/
theorem le_maxw (b : Byte) : 16 ≤ Spec.maxw S b := by
  by_contra hlt
  have hsquare (a : Byte) : Spec.walsh S b a ^ 2 ≤ 15 ^ 2 := by
    have hle := Finset.le_sup (f := fun a => (Spec.walsh S b a).natAbs) (Finset.mem_univ a)
    rw [← Spec.maxw] at hle
    exact sq_le_sq' (by omega) (by omega)
  have hsum := Finset.sum_le_card_nsmul Finset.univ _ _ fun a _ => hsquare a
  rw [parseval, card_univ_byte] at hsum
  norm_num at hsum

theorem nl_le_120 (b : Byte) : Spec.nl S b ≤ 120 := by
  have hmax := le_maxw S b
  rw [Spec.nl]
  omega

end Table

/-! ### The result of `WHT` (R182) -/

theorem wht_next {rd rs1 : RegNum} {s t : State} (herr : s.status.err = false) (hsbv : s.status.sbv = true)
    (hexec : exec (.wht rd rs1) s = .next t) :
    t.reg rd = BitVec.ofNat 32 (Spec.nl (cellAt s.sbox) (Spec.low8 (s.reg rs1)))
      ∧ ∀ a, cellAt t.ws a = Spec.walsh (cellAt s.sbox) (Spec.low8 (s.reg rs1)) a := by
  have hrun := exec_respond (i := .wht rd rs1) (.inl herr) (whtEffect_of_ready hsbv rd rs1)
  obtain rfl := Host.Outcome.next.inj (hexec.symm.trans (hrun.trans (answers_eq _ _)))
  exact ⟨State.reg_setReg_same _ rd _, fun a => (cellAt_byteTable _ a).trans (walsh_eq _ _ a)⟩

/-! ### The statements -/

/-- Settles O54: the laws at the mask 0 and the relation to the LAT are counts; the bound 120 is Parseval's. -/
theorem spectralLaws : Obligations.SpectralLaws := by
  refine ⟨fun T b => ?_, fun rd rs1 s t herr hsbv hexec => ?_⟩
  · simp only [walsh_eq, nl_eq, maxw_eq, lat_eq]
    exact ⟨fun a => ⟨even_walsh _ b a, walsh_bounds _ b a⟩, nl_le _ b, walsh_zero_zero _,
      fun a => walsh_zero_left _, nl_zero _,
      fun hT hb => walsh_zero_right ((permutation_iff_injective T).mp hT) hb, parseval _ b, le_maxw _ b,
      nl_le_120 _ b, fun a => walsh_eq_lat _ a b⟩
  · obtain ⟨hreg, hws⟩ := wht_next herr hsbv hexec
    simp only [hreg, hws]
    exact natWord_toNat (nl_lt _ _)

/-- All entries 0 but one: an S-box whose LAT has an odd count, since it is no permutation. -/
def oneEntry : Cells Byte 256 := byteTable fun x => if x = 0#8 then 1#8 else 0#8

theorem lat_oneEntry : lat oneEntry 0#8 1#8 = 255 := by decide +kernel

/-- Settles O57: the counts at the mask 0 and the Walsh identity; `oneEntry` shows that a count can be odd. -/
theorem latLaws : Obligations.LatLaws := by
  refine ⟨fun T a b => ⟨lat_eq T a b, ?_⟩, oneEntry, 0#8, 1#8, ?_⟩
  · simp only [lat_eq, walsh_eq]
    exact ⟨by rw [walsh_eq_lat]; omega, lat_zero_zero _, fun ha => lat_zero_right _ ha,
      fun hT hb => lat_zero_left ((permutation_iff_injective T).mp hT) hb⟩
  · rw [lat_oneEntry]
    decide

/-! ### DDT counts of the difference 0 and of a permutation (R216) -/

section Table

variable (S : Byte → Byte)

theorem ddt_zero_left (dy : Byte) : Spec.ddt S 0#8 dy = if dy = 0#8 then 256 else 0 := by
  simp only [Spec.ddt, BitVec.xor_zero, BitVec.xor_self]
  split
  · next h => simp only [h, Finset.filter_true, card_univ_byte]
  · next h => simp only [Ne.symm h, Finset.filter_false, Finset.card_empty]

/-- The count of a row is even also for the difference 0. -/
theorem even_ddt_all (dx dy : Byte) : Even (Spec.ddt S dx dy) := by
  by_cases hdx : dx = 0#8
  · rw [hdx, ddt_zero_left]
    split <;> decide
  · exact even_ddt S hdx dy

variable {S} in
/-- A permutation has no output difference 0 but for the input difference 0. -/
theorem ddt_zero_right (hS : Function.Injective S) {dx : Byte} (hdx : dx ≠ 0#8) :
    Spec.ddt S dx 0#8 = 0 := by
  refine Finset.card_eq_zero.mpr (Finset.filter_eq_empty_iff.mpr fun x _ hx => hdx ?_)
  have hxx : x ^^^ dx = x := hS (BitVec.xor_eq_zero_iff.mp hx)
  rw [← xor_cancel_left x dx, hxx, BitVec.xor_self]

end Table

/-- Settles O56: the machine's count is that of R216, and inputs `x` and `x XOR dx` are counted together. -/
theorem ddtLaws : Obligations.DdtLaws := by
  intro T dx dy
  simp only [ddt_eq, true_and]
  exact ⟨sum_ddt _ dx, fun hdx => even_ddt _ hdx dy, ddt_zero_left _ 0#8,
    fun hdy => (ddt_zero_left _ dy).trans (if_neg hdy),
    fun hT hdx => ddt_zero_right ((permutation_iff_injective T).mp hT) hdx⟩

end Sys2Proof.Machine

/-! ## Laws of the Avalanche Analyzer (43_avalanche.md R205)

The inputs `x` and `x XOR 2^j` have the same output difference, so every count is even. Of two output bits, the inputs
that flip exactly one of them are those that flip the first and those that flip the second, less twice those that flip
both. -/

namespace Sys2Proof.Machine

/-! ### Even counts (R201, R203) -/

theorem bit_ne_zero : ∀ j : Fin 8, Spec.bit j ≠ 0#8 := by decide

section Counts

variable (S : Byte → Byte)

/-- Both ends of a flip of an input bit have the same output difference. -/
theorem dflip_xor_bit (j : Fin 8) (x : Byte) : Spec.dflip S j (x ^^^ Spec.bit j) = Spec.dflip S j x := by
  rw [Spec.dflip, Spec.dflip, xor_cancel_right, BitVec.xor_comm]

/-- A condition on the output difference holds for an even number of inputs. -/
theorem even_card_dflip (j : Fin 8) (p : Byte → Bool) :
    Even (Finset.univ.filter fun x => p (Spec.dflip S j x) = true).card := by
  refine even_card_of_xor_mem (bit_ne_zero j) fun x hx => ?_
  rw [Finset.mem_filter_univ] at hx ⊢
  rw [dflip_xor_bit, hx]

theorem even_sac (j i : Fin 8) : Even (Spec.sac S j i) := even_card_dflip S j fun d => d.getLsbD i.val

/-- A pair count as the count of a component function of the output difference. -/
theorem bcnt_eq_card_xor (i k j : Fin 8) : Spec.bcnt S i k j = (Finset.univ.filter fun x : Byte =>
    ((Spec.dflip S j x).getLsbD i.val ^^ (Spec.dflip S j x).getLsbD k.val) = true).card := by
  simp only [Spec.bcnt, bne_iff_ne]

theorem even_bcnt (i k j : Fin 8) : Even (Spec.bcnt S i k j) := by
  rw [bcnt_eq_card_xor]
  exact even_card_dflip S j fun d => d.getLsbD i.val ^^ d.getLsbD k.val

theorem even_bsum (i k : Fin 8) : Even (Spec.bsum S i k) := by
  rw [Spec.bsum]
  split
  · exact Even.zero
  · exact Finset.even_sum _ fun j _ => even_bcnt S i k j

/-! ### Pairs of output bits (R203, R205) -/

theorem bcnt_comm (i k j : Fin 8) : Spec.bcnt S i k j = Spec.bcnt S k i j := by
  simp only [Spec.bcnt, ne_comm]

theorem bsum_comm (i k : Fin 8) : Spec.bsum S i k = Spec.bsum S k i := by
  simp only [Spec.bsum, bcnt_comm S i k, eq_comm (a := i)]

theorem bsum_self (i : Fin 8) : Spec.bsum S i i = 0 := if_pos rfl

theorem selector_eq_xor : ∀ i k : Fin 8, i ≠ k → Spec.selector (i, k) = Spec.bit i ^^^ Spec.bit k := by decide

/-- The component function of the selector `2^i OR 2^k` is the XOR of the two bits. -/
theorem parity_selector_and {i k : Fin 8} (h : i ≠ k) (v : Byte) :
    Spec.parity (Spec.selector (i, k) &&& v) = (v.getLsbD i.val ^^ v.getLsbD k.val) := by
  rw [selector_eq_xor i k h, BitVec.and_comm, parity_and_xor, parity_and_bit, parity_and_bit]

theorem bcnt_eq_card_parity {i k : Fin 8} (h : i ≠ k) (j : Fin 8) : Spec.bcnt S i k j
    = (Finset.univ.filter fun x : Byte => Spec.parity (Spec.selector (i, k) &&& Spec.dflip S j x) = true).card := by
  simp only [bcnt_eq_card_xor, parity_selector_and h]

/-- The inputs that flip the output bits `i` and `k` both. -/
def bothFlips (i k j : Fin 8) : Nat := (Finset.univ.filter fun x : Byte =>
  ((Spec.dflip S j x).getLsbD i.val && (Spec.dflip S j x).getLsbD k.val) = true).card

/-- Counting the flips of two output bits counts the inputs that flip both twice. -/
theorem bcnt_add_bothFlips (i k j : Fin 8) :
    Spec.bcnt S i k j + 2 * bothFlips S i k j = Spec.sac S j i + Spec.sac S j k := by
  simp only [bcnt_eq_card_xor, bothFlips, Spec.sac, Finset.card_filter, Finset.mul_sum, ← Finset.sum_add_distrib]
  refine Finset.sum_congr rfl fun x _ => ?_
  cases (Spec.dflip S j x).getLsbD i.val <;> cases (Spec.dflip S j x).getLsbD k.val <;> rfl

theorem even_bcnt_sub (i k j : Fin 8) :
    Even ((Spec.bcnt S i k j : Int) - ((Spec.sac S j i : Int) + (Spec.sac S j k : Int))) := by
  have hsum := bcnt_add_bothFlips S i k j
  exact ⟨-bothFlips S i k j, by omega⟩

theorem bcnt_le_add (i k j : Fin 8) : Spec.bcnt S i k j ≤ Spec.sac S j i + Spec.sac S j k :=
  (Nat.le_add_right _ _).trans (bcnt_add_bothFlips S i k j).le

end Counts

/-! ### What the two commands leave alone (R205) -/

/-- `SAC` writes `RVALID_A` and `SAC_SUM` only (R43, R202). -/
theorem bankValue_writeSac (s : State) {n : Nat} (hvalid : n ≠ 0) (hsum : n ≠ 7) :
    Spec.bankValue (writeSac s).bankA n = Spec.bankValue s.bankA n := by
  have hrange : (1 ≤ n ∧ n ≤ 6) ∨ (8 ≤ n ∧ n ≤ 13) ∨ 14 ≤ n := by omega
  obtain ⟨hlow, hhigh⟩ | ⟨hlow, hhigh⟩ | hnone := hrange
  · interval_cases n <;> rfl
  · interval_cases n <;> rfl
  · rw [bankValue_none _ hnone, bankValue_none _ hnone]

/-- `BICSAC` writes `RVALID_A` and the four registers of the pair sums only (R43, R204). -/
theorem bankValue_writeBicsac (s : State) {n : Nat} (hvalid : n ≠ 0)
    (hbs : n ≠ 8 ∧ n ≠ 9 ∧ n ≠ 10 ∧ n ≠ 11) :
    Spec.bankValue (writeBicsac s).bankA n = Spec.bankValue s.bankA n := by
  have hrange : (1 ≤ n ∧ n ≤ 7) ∨ (12 ≤ n ∧ n ≤ 13) ∨ 14 ≤ n := by omega
  obtain ⟨hlow, hhigh⟩ | ⟨hlow, hhigh⟩ | hnone := hrange
  · interval_cases n <;> rfl
  · interval_cases n <;> rfl
  · rw [bankValue_none _ hnone, bankValue_none _ hnone]

/-- Settles O55: the counts by pairs of inputs, the frame by the list of updates. -/
theorem avalancheLaws : Obligations.AvalancheLaws := by
  refine ⟨fun T i k j => ?_, fun i s t hi hexec => ?_⟩
  · simp only [sacCount_eq, bicCount_eq, bicSum_eq]
    exact ⟨⟨even_sac _ j i, sac_le _ j i⟩, ⟨even_bsum _ i k, bsum_le _ i k⟩, bsum_comm _ i k, bsum_self _ i,
      fun hik => bcnt_eq_card_parity _ hik j, even_bcnt_sub _ i k j, bcnt_le_add _ i k j⟩
  · obtain ⟨u, x, rs, hw, rfl⟩ := exec_next_eq hexec
    obtain rfl | rfl := hi
    · cases hw with
      | nothing | latch => exact ⟨rfl, rfl, rfl, rfl, fun _ _ _ _ => rfl⟩
      | sac => exact ⟨rfl, rfl, rfl, rfl, fun n hn h7 _ => bankValue_writeSac s hn (h7 rfl)⟩
    · cases hw with
      | nothing | latch => exact ⟨rfl, rfl, rfl, rfl, fun _ _ _ _ => rfl⟩
      | bicsac => exact ⟨rfl, rfl, rfl, rfl, fun n hn _ h => bankValue_writeBicsac s hn (h rfl)⟩

end Sys2Proof.Machine

/-! ## Reset and good states (70_reset_and_hazards.md R330, R331; 10_state.md R60)

A step changes the part of the state that a good state is about by a chain of updates: most commands by one, `ANALYZE`
by the six of the report. `Update` lists them with the values they write and the check each was made under. Every
part of the invariant is kept by every update, so it is kept by every chain and by every step. -/

namespace Sys2Proof.Machine

/-! ### The reset state (R331) -/

theorem not_injective_fill_zero : ¬ Function.Injective (cellAt (Cells.fill 256 0#8)) := by
  intro h
  have : (0#8 : Byte) = 1#8 := h (by rw [cellAt, cellAt, Cells.get_fill, Cells.get_fill])
  cases this

theorem bankValue_reset {n : Nat} (hn : n < 14) : Spec.bankValue Report.reset n = some 0#32 := by
  interval_cases n <;> rfl

/-- Settles O37: a step on a reset assertion is the reset event. -/
theorem hostResetResets : Obligations.HostResetResets := by
  intro s rest hin
  rw [step_reset hin]
  rfl

/-- Settles O38: every row is filled with 0, and the table of 256 zeros is not one-to-one. -/
theorem resetStateIsZero : Obligations.ResetStateIsZero :=
  ⟨fun r => Cells.get_fill _ r, rfl, rfl, rfl, rfl, rfl, rfl, fun i => Cells.get_fill _ i, rfl, rfl, rfl,
    fun _ => bankValue_reset, fun _ => bankValue_reset, rfl,
    fun _ => Cells.get_fill _ _, fun _ => Cells.get_fill _ _, fun _ => Cells.get_fill _ _,
    fun _ => Cells.get_fill _ _, fun _ => Cells.get_fill _ _, fun _ => Cells.get_fill _ _,
    fun _ => Cells.get_fill _ _, fun _ => Cells.get_fill _ _, rfl,
    (permutation_iff_injective _).not.mpr not_injective_fill_zero⟩

/-! ### The updates of a step, with the values they write -/

/-- `Update s t`: one update that a step can make to the state a good state is about. `Writes` says which command
writes where and leaves the values open; here the values and the check they were written under stand, and the command
does not. -/
inductive Update (s : State) : State → Prop
  /-- Outside the invariant: general registers, `CC`, `CTRL`, `MAT`, `CONST`, and the host's side. -/
  | outside (x : Cells Word 16) (cc : Word) (ctrl : BitVec 3) (mat : Cells Byte 8) (const : Byte)
      (input : List HostInput) (responses : List Response) : Update s
      { s with x := x, cc := cc, ctrl := ctrl, mat := mat, const := const, input := input, responses := responses }
  /-- An exception is latched (R296). -/
  | latch (e : Exc) (info w : Word) : Update s
      { s with
        status := { s.status with err := true }
        record := { ecause := e.code, einfo := info, ecmd := w, ecc := s.cc } }
  | eclr : Update s s.clearException
  | fbuild {g : Byte} (hg : Spec.Primitive g) : Update s
      { s with exp := expTab g, log := logTab g, gen := g, status := { s.status with ftv := true } }
  | sts (idx v : Byte) : Update s ((s.writeSbox idx v).sboxChanged false)
  | sbuild {T : Cells Byte 256} (hT : Spec.Permutation (cellAt T)) : Update s { s.sboxChanged true with sbox := T }
  | sbchk (hT : Spec.Permutation (cellAt s.sbox)) : Update s { s with status := { s.status with sbv := true } }
  | wht (hsbv : s.status.sbv = true) (b : Byte) : Update s
      { s with ws := byteTable (walsh s.sbox b), wstag := b, status := { s.status with wsv := true } }
  | ddtr (hsbv : s.status.sbv = true) (dx : Byte) : Update s
      { s with dr := byteTable (ddt s.sbox dx), drtag := dx, status := { s.status with drv := true } }
  | latc (hsbv : s.status.sbv = true) (b : Byte) : Update s
      { s with lc := byteTable fun a => lat s.sbox a b, lctag := b, status := { s.status with lcv := true } }
  | nlset (hsbv : s.status.sbv = true) : Update s (writeNl s)
  | bicnl (hsbv : s.status.sbv = true) : Update s (writeBicnl s)
  | sac (hsbv : s.status.sbv = true) : Update s (writeSac s)
  | bicsac (hsbv : s.status.sbv = true) : Update s (writeBicsac s)
  | lap (hsbv : s.status.sbv = true) : Update s (writeLap s)
  | dap (hsbv : s.status.sbv = true) : Update s (writeDap s)
  | snap : Update s { s with bankB := s.bankA }
  | cmp (m : Metric) : Update s { s with cmp := m.compare s.bankA s.bankB }

/-- A chain of updates. -/
abbrev Updates : State → State → Prop := Relation.ReflTransGen Update

theorem Updates.setReg {s u : State} (h : Updates s u) (rd : RegNum) (v : Word) : Updates s (u.setReg rd v) :=
  h.tail (.outside _ _ _ _ _ _ _)

theorem Updates.retire {s u : State} (h : Updates s u) (r : Response) : Updates s (u.retire r) :=
  h.tail (.outside _ _ _ _ _ _ _)

theorem Update.updates {s u : State} (h : Update s u) : Updates s u := .single h

/-- The writes of `ANALYZE` are those of the six report commands (R243). -/
theorem updates_writeReport {s : State} (hsbv : s.status.sbv = true) : Updates s (writeReport s) :=
  (Update.nlset hsbv).updates.tail (.bicnl hsbv) |>.tail (.sac hsbv) |>.tail (.bicsac hsbv)
    |>.tail (.lap hsbv) |>.tail (.dap hsbv)

/-- Pseudocode that responds makes updates only. -/
theorem effect_respond_updates {i : Instr} {s t : State} {d : Word} (h : effect i s = .respond d t) :
    Updates s t := by
  cases i with
  | nop => obtain ⟨-, rfl⟩ := nopEffect_respond h; exact .refl
  | li => obtain ⟨-, rfl⟩ := liEffect_respond h; exact .setReg .refl _ _
  | get => obtain ⟨-, rfl⟩ := getEffect_respond h; exact .refl
  | csrr => obtain ⟨-, -, -, rfl⟩ := csrrEffect_respond h; exact .setReg .refl _ _
  | csrw => obtain ⟨-, -, rfl⟩ := csrwEffect_respond h; exact (Update.outside _ _ _ _ _ _ _).updates
  | eclr => obtain ⟨-, rfl⟩ := eclrEffect_respond h; exact Update.eclr.updates
  | ldt => obtain ⟨-, -, -, -, -, rfl⟩ := ldtEffect_respond h; exact .setReg .refl _ _
  | sts => obtain ⟨idx, v, -, -, -, rfl⟩ := stsEffect_respond h; exact (Update.sts idx v).updates
  | gfadd => obtain ⟨-, rfl⟩ := gfaddEffect_respond h; exact .setReg .refl _ _
  | gfmul => obtain ⟨-, -, rfl⟩ := gfmulEffect_respond h; exact .setReg .refl _ _
  | gfinv => obtain ⟨-, -, -, rfl⟩ := gfinvEffect_respond h; exact .setReg .refl _ _
  | gfinvz => obtain ⟨-, -, rfl⟩ := gfinvzEffect_respond h; exact .setReg .refl _ _
  | fbuild =>
    obtain ⟨g, -, hg, -, rfl⟩ := fbuildEffect_respond h
    exact (Update.fbuild ((isPrimitive_iff g).mp hg)).updates
  | mrow => obtain ⟨-, -, -, -, rfl⟩ := mrowEffect_respond h; exact (Update.outside _ _ _ _ _ _ _).updates
  | mconst => obtain ⟨-, -, -, rfl⟩ := mconstEffect_respond h; exact (Update.outside _ _ _ _ _ _ _).updates
  | matv => obtain ⟨-, rfl⟩ := matvEffect_respond h; exact .setReg .refl _ _
  | aff => obtain ⟨-, rfl⟩ := affEffect_respond h; exact .setReg .refl _ _
  | sbuild =>
    obtain ⟨-, hT, -, rfl⟩ := sbuildEffect_respond h
    exact (Update.sbuild ((isPermutation_iff _).mp hT)).updates
  | sbchk =>
    obtain ⟨hT, -, rfl⟩ := sbchkEffect_respond h
    exact (Update.sbchk ((isPermutation_iff _).mp hT)).updates
  | wht => obtain ⟨hsbv, -, rfl⟩ := whtEffect_respond h; exact (Update.wht hsbv _).updates.setReg _ _
  | nlset => obtain ⟨hsbv, -, rfl⟩ := nlsetEffect_respond h; exact (Update.nlset hsbv).updates
  | bicnl => obtain ⟨hsbv, -, rfl⟩ := bicnlEffect_respond h; exact (Update.bicnl hsbv).updates
  | sac => obtain ⟨hsbv, -, rfl⟩ := sacEffect_respond h; exact (Update.sac hsbv).updates
  | bicsac => obtain ⟨hsbv, -, rfl⟩ := bicsacEffect_respond h; exact (Update.bicsac hsbv).updates
  | ddtr => obtain ⟨hsbv, -, rfl⟩ := ddtrEffect_respond h; exact (Update.ddtr hsbv _).updates.setReg _ _
  | dap => obtain ⟨hsbv, -, rfl⟩ := dapEffect_respond h; exact (Update.dap hsbv).updates
  | latc => obtain ⟨hsbv, -, rfl⟩ := latcEffect_respond h; exact (Update.latc hsbv _).updates.setReg _ _
  | lap => obtain ⟨hsbv, -, rfl⟩ := lapEffect_respond h; exact (Update.lap hsbv).updates
  | analyze => obtain ⟨hsbv, -, rfl⟩ := analyzeEffect_respond h; exact updates_writeReport hsbv
  | snap => obtain ⟨-, rfl⟩ := snapEffect_respond h; exact Update.snap.updates
  | cmp => obtain ⟨m, -, -, -, rfl⟩ := cmpEffect_respond h; exact (Update.cmp m).updates.setReg _ _

theorem takeException_updates (s : State) (e : Exc) (info w : Word) : Updates s (takeException s e info w) := by
  cases herr : s.status.err with
  | false =>
    rw [takeException_latch herr]
    exact (Update.latch e info w).updates.retire _
  | true =>
    rw [takeException_keep herr]
    exact .retire .refl _

/-- However a command word ends, it makes updates only. -/
theorem runWord_updates {w : Word} {s t : State} (h : runWord w s = .next t) : Updates s t := by
  rcases runWord_cases w s with ⟨-, -, hr⟩ | ⟨-, ⟨i, d, u, -, hb, hr⟩ | ⟨e, info, hr⟩⟩
  · obtain rfl := Host.Outcome.next.inj (h.symm.trans (hr.trans (refuses_eq s)))
    exact .retire .refl _
  · obtain rfl := Host.Outcome.next.inj (h.symm.trans (hr.trans (answers_eq d u)))
    exact (effect_respond_updates hb).retire _
  · obtain rfl := Host.Outcome.next.inj (h.symm.trans (hr.trans (raises_eq s e info w)))
    exact takeException_updates s e info w

/-- A step makes updates to the state, or to the reset state. -/
theorem step_updates {s t : State} (h : step s = .next t) : Updates s t ∨ Updates State.reset t := by
  match hin : s.input with
  | [] =>
    obtain rfl := Host.Outcome.next.inj (h.symm.trans (step_idle hin))
    exact .inl .refl
  | .command w :: rest =>
    rw [step_command hin] at h
    exact .inl ((Update.outside _ _ _ _ _ _ _).updates.trans (runWord_updates h))
  | .reset :: rest =>
    obtain rfl := Host.Outcome.next.inj (h.symm.trans (step_reset hin))
    exact .inr (Update.outside _ _ _ _ _ _ _).updates

section Invariant

variable {s t : State}

/-! ### The parts of the invariant that few updates touch -/

theorem RecordInv.update (h : RecordInv s) (hu : Update s t) : RecordInv t := by
  cases hu with
  | latch e => exact ⟨⟨fun _ => rfl, fun _ => e.code_ne_zero⟩, e.code_le_nine, fun herr => nomatch herr⟩
  | eclr => exact ⟨by simp [ExceptionRecord.cleared], (by decide : 0#8 ≤ 9#8), fun _ => rfl⟩
  | _ => exact ⟨h.cause_iff_err, h.cause_le, h.cleared⟩

theorem FieldInv.update (h : FieldInv s) (hu : Update s t) : FieldInv t := by
  cases hu with
  | fbuild hg => exact ⟨fun _ => ⟨hg, isTables_of_primitive hg⟩, fun hftv => nomatch hftv⟩
  | _ => exact ⟨h.valid, h.invalid⟩

theorem SboxInv.update (h : SboxInv s) (hu : Update s t) : SboxInv t := by
  cases hu with
  | sts => exact fun hsbv => nomatch hsbv
  | sbuild hT => exact fun _ => hT
  | sbchk hT => exact fun _ => hT
  | _ => exact h

/-- A command that sets a valid bit has checked `SBV`, and a change of the S-box clears them all. -/
theorem ValidBitsInv.update (h : ValidBitsInv s) (hu : Update s t) : ValidBitsInv t := by
  cases hu with
  | outside | latch | eclr | fbuild | snap | cmp => exact h
  | sts => exact fun hvalid => nomatch hvalid
  | sbuild | sbchk => exact fun _ => rfl
  | _ hsbv => exact fun _ => hsbv

/-- The new delta is the difference modulo 2^32 (R245). -/
theorem Metric.compare_delta (m : Metric) (a b : Report) :
    (m.compare a b).delta = (m.compare a b).a - (m.compare a b).b := by
  simp only [Metric.compare, sext32, Int.sub_eq_add_neg, BitVec.ofInt_add, BitVec.ofInt_neg, BitVec.ofInt_natCast,
    BitVec.ofNat_toNat, BitVec.setWidth_eq, BitVec.sub_eq_add_neg]

theorem winner_ne_three (ka kb : Int) : winner ka kb ≠ 3#2 := by
  unfold winner
  split_ifs <;> decide

theorem CompareInv.update (h : CompareInv s) (hu : Update s t) : CompareInv t := by
  cases hu with
  | cmp m => exact ⟨winner_ne_three _ _, m.compare_delta _ _⟩
  | _ => exact ⟨h.win_ne, h.delta⟩

/-! ### The values behind the valid bits -/

/-- A command that computes a value sets it to that of the formula; every other one leaves it and the S-box, or
clears the valid bits. -/
theorem DerivedInv.update (h : DerivedInv s) (hu : Update s t) : DerivedInv t := by
  cases hu with
  | sts | sbuild => constructor <;> exact fun hvalid => nomatch hvalid
  | wht hsbv b => exact { h with ws := fun _ a => (cellAt_byteTable _ a).trans (walsh_eq _ _ a) }
  | ddtr hsbv dx => exact { h with dr := fun _ dy => (cellAt_byteTable _ dy).trans (ddt_eq _ _ dy) }
  | latc hsbv b => exact { h with lc := fun _ a => (cellAt_byteTable _ a).trans (lat_eq _ a b) }
  | nlset => exact { h with nl := fun _ => isNlReport_writeNl s }
  | bicnl => exact { h with bn := fun _ => isBnReport_writeBicnl s }
  | sac => exact { h with sac := fun _ => isSacReport_writeSac s }
  | bicsac => exact { h with bs := fun _ => isBsReport_writeBicsac s }
  | lap => exact { h with lap := fun _ => isLapReport_writeLap s }
  | dap => exact { h with dap := fun _ => isDapReport_writeDap s }
  | _ => exact { h with }

/-! ### The ranges of cells (R58) -/

/-- A cell of a table of pairs holds the value of a pair of bit numbers. -/
theorem exists_pairTable_get (f : Nat → Nat → Nat) (n : Fin 64) :
    ∃ p q : Fin 8, (pairTable f).get n = f p.val q.val :=
  ⟨⟨n.val / 8, by omega⟩, ⟨n.val % 8, by omega⟩, Cells.get_tabulate _ n⟩

theorem CellRangeInv.update (h : CellRangeInv s) (hu : Update s t) : CellRangeInv t := by
  cases hu with
  | wht hsbv b =>
    refine { h with ws := fun a => ?_ }
    obtain ⟨hlower, hupper⟩ := walsh_bounds (cellAt s.sbox) b a
    rw [cellAt_byteTable, walsh_eq]
    exact ⟨hlower, hupper, even_walsh _ b a⟩
  | ddtr hsbv dx =>
    refine { h with dr := fun dy => ?_ }
    rw [cellAt_byteTable, ddt_eq]
    exact ⟨ddt_le _ dx dy, even_ddt_all _ dx dy⟩
  | latc hsbv b =>
    refine { h with lc := fun a => ?_ }
    rw [cellAt_byteTable, lat_eq]
    exact lat_le _ a b
  | sac =>
    refine { h with sacm := fun n => ?_ }
    obtain ⟨j, i, hcell⟩ := exists_pairTable_get (sacCount s.sbox) n
    rw [writeSac_sacm, hcell, sacCount_eq]
    exact ⟨sac_le _ j i, even_sac _ j i⟩
  | bicsac =>
    refine { h with bsm := fun n => ?_, bsm_diagonal := fun i => ?_ }
    · obtain ⟨i, k, hcell⟩ := exists_pairTable_get (bicSum s.sbox) n
      rw [writeBicsac_bsm, hcell, bicSum_eq]
      exact ⟨bsum_le _ i k, even_bsum _ i k⟩
    · rw [writeBicsac_bsm, get?_pairTable, bicSum_eq, bsum_self]
  | _ => exact { h with }

/-! ### The ranges of report registers (R53) -/

section Reports

variable {S : Byte → Byte} {r : Report}

theorem nlReport_range (h : Spec.IsNlReport S r) : r.nlMin ≤ 120#32 ∧ r.nlMax ≤ 120#32 ∧ r.nlSum ≤ 30600#32 := by
  obtain ⟨hmin, hmax, hsum⟩ := h
  obtain ⟨a, -, ha⟩ := hmin.exists_eq
  obtain ⟨b, -, hb⟩ := hmax.exists_eq
  have hle := Finset.sum_le_card_nsmul Spec.nonzero _ 120 fun c _ => nl_le_120 S c
  rw [card_nonzero, ← hsum] at hle
  exact ⟨BitVec.le_def.mpr (ha ▸ nl_le_120 S a), BitVec.le_def.mpr (hb ▸ nl_le_120 S b), BitVec.le_def.mpr hle⟩

theorem bnReport_range (h : Spec.IsBnReport S r) : r.bnMin ≤ 120#32 ∧ r.bnMax ≤ 120#32 ∧ r.bnSum ≤ 3360#32 := by
  obtain ⟨hmin, hmax, hsum⟩ := h
  obtain ⟨p, -, hp⟩ := hmin.exists_eq
  obtain ⟨q, -, hq⟩ := hmax.exists_eq
  have hle := Finset.sum_le_card_nsmul Spec.pairs _ 120 fun c _ => nl_le_120 S (Spec.selector c)
  rw [card_pairs, ← hsum] at hle
  exact ⟨BitVec.le_def.mpr (hp ▸ nl_le_120 S _), BitVec.le_def.mpr (hq ▸ nl_le_120 S _), BitVec.le_def.mpr hle⟩

theorem sacReport_range {m : Cells Nat 64} (h : Spec.IsSacReport S m r) : r.sacSum ≤ 16384#32 := by
  obtain ⟨-, hsum⟩ := h
  exact BitVec.le_def.mpr (hsum ▸ sum_sac_le S)

theorem le_base (quarter : Bool) : 14336 ≤ Spec.base quarter := by
  cases quarter <;> decide

/-- The greatest distance of a total of at most 57344 is that from the lower of the two baselines. -/
theorem bsDev_le_43008 (S : Byte → Byte) (quarter : Bool) : Spec.bsDev S quarter ≤ 43008 := by
  have htotal := bsTotal_le S
  have hupper := base_le quarter
  have hlower := le_base quarter
  rw [Spec.bsDev]
  omega

theorem bsReport_range {m : Cells Nat 64} (h : Spec.IsBsReport S m r) :
    r.bsMin ≤ 2048#32 ∧ r.bsMax ≤ 2048#32 ∧ r.bsSum ≤ 57344#32 ∧ r.bsDev ≤ 43008#32 := by
  obtain ⟨-, hmin, hmax, hsum, hdev⟩ := h
  obtain ⟨p, -, hp⟩ := hmin.exists_eq
  obtain ⟨q, -, hq⟩ := hmax.exists_eq
  exact ⟨BitVec.le_def.mpr (hp ▸ bsum_le S _ _), BitVec.le_def.mpr (hq ▸ bsum_le S _ _),
    BitVec.le_def.mpr (hsum ▸ bsTotal_le S), BitVec.le_def.mpr (hdev ▸ bsDev_le_43008 S _)⟩

theorem lapReport_range (h : Spec.IsLapReport S r) : r.lapMax ≤ 128#32 := by
  obtain ⟨a, -, b, -, hmax⟩ := h.exists_eq_prod
  exact BitVec.le_def.mpr (hmax ▸ bias_le S a b)

theorem dapReport_range (h : Spec.IsDapReport S r) : r.dapMax ≤ 256#32 := by
  obtain ⟨-, hle, -⟩ := dapMax_bounds h
  exact BitVec.le_def.mpr hle

end Reports

theorem ReportRange.update (h : ReportRange s.bankA) (hu : Update s t) : ReportRange t.bankA := by
  cases hu with
  | nlset =>
    obtain ⟨hmin, hmax, hsum⟩ := nlReport_range (isNlReport_writeNl s)
    exact { h with nlMin := hmin, nlMax := hmax, nlSum := hsum }
  | bicnl =>
    obtain ⟨hmin, hmax, hsum⟩ := bnReport_range (isBnReport_writeBicnl s)
    exact { h with bnMin := hmin, bnMax := hmax, bnSum := hsum }
  | sac => exact { h with sacSum := sacReport_range (isSacReport_writeSac s) }
  | bicsac =>
    obtain ⟨hmin, hmax, hsum, hdev⟩ := bsReport_range (isBsReport_writeBicsac s)
    exact { h with bsMin := hmin, bsMax := hmax, bsSum := hsum, bsDev := hdev }
  | lap => exact { h with lapMax := lapReport_range (isLapReport_writeLap s) }
  | dap => exact { h with dapMax := dapReport_range (isDapReport_writeDap s) }
  | _ => exact { h with }

/-- Bank B is written by `SNAP` only, with bank A. -/
theorem ReportRange.update_bankB (hA : ReportRange s.bankA) (hB : ReportRange s.bankB) (hu : Update s t) :
    ReportRange t.bankB := by
  cases hu with
  | snap => exact hA
  | _ => exact hB

/-! ### The invariant -/

theorem State.Inv.update (h : s.Inv) (hu : Update s t) : t.Inv where
  record := h.record.update hu
  field := h.field.update hu
  sbox := h.sbox.update hu
  validBits := h.validBits.update hu
  derived := h.derived.update hu
  cells := h.cells.update hu
  bankA := h.bankA.update hu
  bankB := h.bankA.update_bankB h.bankB hu
  compare := h.compare.update hu

theorem State.Inv.updates (h : s.Inv) (hu : Updates s t) : t.Inv := by
  induction hu with
  | refl => exact h
  | tail _ hlast ih => exact ih.update hlast

end Invariant

theorem reportRange_reset : ReportRange Report.reset := by
  constructor <;> decide

/-- No valid bit is set and every cell and register is 0. -/
theorem inv_reset : State.reset.Inv where
  record := ⟨by decide, by decide, fun _ => rfl⟩
  field := ⟨fun hftv => (nomatch hftv), fun _ => ⟨rfl, rfl, rfl⟩⟩
  sbox := fun hsbv => nomatch hsbv
  validBits := fun hvalid => nomatch hvalid
  derived := by constructor <;> exact fun hvalid => nomatch hvalid
  cells :=
    { ws := fun a => by rw [cellAt, State.reset, Cells.get_fill]; decide
      dr := fun dy => by rw [cellAt, State.reset, Cells.get_fill]; decide
      lc := fun a => by rw [cellAt, State.reset, Cells.get_fill]; decide
      sacm := fun n => by rw [State.reset, Cells.get_fill]; decide
      bsm := fun n => by rw [State.reset, Cells.get_fill]; decide
      bsm_diagonal := fun i => by
        rw [State.reset, Cells.get?_of_lt _ (show i.val * 8 + i.val < 64 by omega), Cells.get_fill] }
  bankA := reportRange_reset
  bankB := reportRange_reset
  compare := ⟨by decide, rfl⟩

/-- Settles O48, part by part: what is read is 0, and no flag is set. -/
theorem resetIsGoodState : Obligations.ResetIsGoodState := inv_reset

/-- Settles O47: a step is a chain of updates from the state or from the reset state, and each update keeps each part
of the invariant. -/
theorem stepKeepsGoodState : Obligations.StepKeepsGoodState := by
  intro s t hinv hstep
  rcases step_updates hstep with hu | hu
  · exact hinv.updates hu
  · exact inv_reset.updates hu

end Sys2Proof.Machine
